-- ==== Sys2Proof/Word.lean ====
section
/-! DEFINITION. The word types of the block (spec/00_scope.md R8): bytes of the bus, 16-bit bounds, cursors and samples, 32-bit surface words. -/

namespace Sys2Proof

/-- A byte of the bus (R8, 30_encoding.md R40). -/
abbrev Byte := BitVec 8

/-- A window bound, a cursor coordinate or a pixel sample (R8). -/
abbrev Half := BitVec 16

/-- The RGBA32 word of one pixel (R8). -/
abbrev Word := BitVec 32

/-- The level of a line, one bit: true is 1, false is 0 (00_scope.md R7). -/
abbrev Level := Bool

end Sys2Proof
end

