-- ==== Sys2Proof/Config.lean ====
section
/-! DEFINITION. The implementation parameters of spec/00_scope.md R6 as one record, which every definition of the model takes as an argument or reads
from the state's `config` (spec/10_state.md R21), the constraints R7 puts on them, and the record of this hardware. -/

namespace Sys2Proof

/-- The two orders in which the sink may store the four bytes of a word (D23: "both orders"). -/
inductive ByteOrder where
  | big
  | little
deriving DecidableEq, Repr, Inhabited

/-- The parameters of 00_scope.md R6, one field each. -/
structure Config where
  /-- `WIDTH`. -/
  width : Nat
  /-- `HEIGHT`. -/
  height : Nat
  /-- `CMD_CASET`. -/
  cmdCaset : Byte
  /-- `CMD_RASET`. -/
  cmdRaset : Byte
  /-- `CMD_RAMWR`. -/
  cmdRamwr : Byte
  /-- `CMD_MADCTL`. -/
  cmdMadctl : Byte
  /-- `BIT_MIRROR_X`. -/
  bitMirrorX : Nat
  /-- `BIT_MIRROR_Y`. -/
  bitMirrorY : Nat
  /-- `BIT_SWAP`. -/
  bitSwap : Nat
  /-- `MODE_DATA_LEVEL`. -/
  modeDataLevel : Level
  /-- `SELECT_ACTIVE_LEVEL`. -/
  selectActiveLevel : Level
  /-- `RESET_ACTIVE_LEVEL`. -/
  resetActiveLevel : Level
  /-- `RESET_ROW_START`. -/
  resetRowStart : Half
  /-- `RESET_ROW_END`. -/
  resetRowEnd : Half
  /-- `MODE_AT_POWER_ON`, the mode-select line's level at power-on. -/
  modeAtPowerOn : Level
  /-- `SELECTED_AT_POWER_ON`, whether the select line is active at power-on. -/
  selectedAtPowerOn : Bool
  /-- `SURFACE_BYTE_ORDER`. -/
  surfaceByteOrder : ByteOrder
deriving DecidableEq, Repr

/-- The size in bytes of the surface's address space (20_memory.md R31). -/
def Config.surfaceBytes (c : Config) : Nat := c.width * c.height * 4

/-- The constraints of 00_scope.md R7. Those on the widths of the other parameters are their fields' types. -/
abbrev Config.Admitted (c : Config) : Prop :=
  (1 ≤ c.width ∧ c.width ≤ 65536) ∧ (1 ≤ c.height ∧ c.height ≤ 65536) ∧
  [c.cmdCaset, c.cmdRaset, c.cmdRamwr, c.cmdMadctl].Nodup ∧
  List.Perm [c.bitMirrorX, c.bitMirrorY, c.bitSwap] [7, 6, 5]

/-- `RESET_ROW_START`, OPEN (R6, D10; log entry 2): a free value. -/
opaque Config.openResetRowStart : Half
/-- `RESET_ROW_END`, OPEN (R6, D10; log entry 2): a free value. -/
opaque Config.openResetRowEnd : Half
/-- `MODE_AT_POWER_ON`, OPEN (R6, D8; log entry 3): a free value. -/
opaque Config.openModeAtPowerOn : Level
/-- `SELECTED_AT_POWER_ON`, OPEN (R6, D8; log entry 3): a free value. -/
opaque Config.openSelectedAtPowerOn : Bool
/-- `SURFACE_BYTE_ORDER`, OPEN (R6, D23; log entry 5): a free value. -/
opaque Config.openSurfaceByteOrder : ByteOrder

/-- The parameters at the values the spec uses for this hardware (R6's column "value", D2 to D7), the OPEN ones free. -/
def Config.chip : Config where
  width := 128
  height := 160
  cmdCaset := 0x2A
  cmdRaset := 0x2B
  cmdRamwr := 0x2C
  cmdMadctl := 0x36
  bitMirrorX := 7
  bitMirrorY := 6
  bitSwap := 5
  modeDataLevel := true
  selectActiveLevel := false
  resetActiveLevel := false
  resetRowStart := Config.openResetRowStart
  resetRowEnd := Config.openResetRowEnd
  modeAtPowerOn := Config.openModeAtPowerOn
  selectedAtPowerOn := Config.openSelectedAtPowerOn
  surfaceByteOrder := Config.openSurfaceByteOrder

end Sys2Proof
end

