-- ==== Sys2Proof/Syntax.lean ====
section
/-! DEFINITION. The commands of the block, one constructor per row of spec/opcode_table.json (30_encoding.md R43). -/

namespace Sys2Proof

/-- A complete command: its code, and its parameters read as operands. -/
inductive Instr where
  /-- Column-Address-Set with its two bounds (41_commands.md R69; 30_encoding.md R46). -/
  | caset (start stop : Half)
  /-- Row-Address-Set with its two bounds (R70, R46). -/
  | raset (start stop : Half)
  /-- Memory-Write (R67). -/
  | ramwr
  /-- Memory-Access-Control with its parameter byte, the ignored bits 4:0 included (R68, R45). -/
  | madctl (arg : Byte)
  /-- Every other command code (R71, R48). -/
  | unknown (code : Byte)
deriving DecidableEq, Repr

end Sys2Proof
end

