-- ==== Sys2Proof/WellFormed.lean ====
section
/-! DEFINITION. Which terms of `Instr` are commands of the block. Every operand value is legal (30_encoding.md R45, R46, R48); the one check is
that an UNKNOWN code is none of the four recognised codes (R43, R48). -/

namespace Sys2Proof

/-- The code is one of the four recognised ones (30_encoding.md R43). -/
abbrev recognised (c : Config) (code : Byte) : Prop :=
  code = c.cmdCaset ∨ code = c.cmdRaset ∨ code = c.cmdRamwr ∨ code = c.cmdMadctl

/-- A command that some sequence of bytes encodes. -/
def WellFormed (c : Config) : Instr → Bool
  | .caset _ _ => true
  | .raset _ _ => true
  | .ramwr => true
  | .madctl _ => true
  | .unknown code => decide (¬ recognised c code)

end Sys2Proof
end

