-- ==== Sys2Proof/Decode.lean ====
section
/-! DEFINITION. The decoder and the encoder of complete commands, from spec/30_encoding.md: a command is its code followed by its `ArgCount`
parameter bytes (R43, R44, R49). Which bytes of the stream form a command is the parser's matter (Machine/Protocol.lean). -/

namespace Sys2Proof

/-- A big-endian 16-bit value, `h` the first byte on the bus (20_memory.md R35, 30_encoding.md R46, R47). -/
def halfOfBytes (h l : Byte) : Half := (h.setWidth 16 <<< 8) ||| l.setWidth 16

/-- The bytes of a 16-bit value in bus order (20_memory.md R35). -/
def bytesOfHalf (v : Half) : List Byte := [(v >>> 8).setWidth 8, v.setWidth 8]

/-- `ArgCount` (30_encoding.md R44). -/
def argCount (c : Config) (code : Byte) : Nat :=
  if code = c.cmdMadctl then 1
  else if code = c.cmdCaset ∨ code = c.cmdRaset then 4
  else 0

/-- Why a sequence of bytes is not a complete command. No CODE is rejected (30_encoding.md R48). -/
inductive DecodeError where
  /-- There is no command byte. -/
  | noCommandByte
  /-- Fewer parameter bytes than `ArgCount(code)` (30_encoding.md R49). -/
  | missingParameters (code : Byte)
deriving DecidableEq, Repr

/-- What the decoder answers: a command and the bytes after it, or a rejection by name. -/
inductive DecodeResult where
  | ok (i : Instr) (rest : List Byte)
  | rejected (why : DecodeError)
deriving DecidableEq, Repr

/-- The two bounds of CASET and RASET (30_encoding.md R46), given to the command's constructor. -/
def decodeBounds (code : Byte) (mk : Half → Half → Instr) : List Byte → DecodeResult
  | p0 :: p1 :: p2 :: p3 :: rest => .ok (mk (halfOfBytes p0 p1) (halfOfBytes p2 p3)) rest
  | _ => .rejected (.missingParameters code)

/-- The parameter byte of MADCTL (30_encoding.md R45). -/
def decodeMadctl (code : Byte) : List Byte → DecodeResult
  | a :: rest => .ok (.madctl a) rest
  | [] => .rejected (.missingParameters code)

/-- A command byte and its parameters: the four codes first, and only a byte that equals none of them is UNKNOWN (30_encoding.md R43). -/
def decode (c : Config) : List Byte → DecodeResult
  | [] => .rejected .noCommandByte
  | code :: ps =>
    if code = c.cmdCaset then decodeBounds code Instr.caset ps
    else if code = c.cmdRaset then decodeBounds code Instr.raset ps
    else if code = c.cmdRamwr then .ok .ramwr ps
    else if code = c.cmdMadctl then decodeMadctl code ps
    else .ok (.unknown code) ps

/-- The bytes of a command: its code (30_encoding.md R43), then its parameters in bus order (R45, R46). -/
def encode (c : Config) : Instr → List Byte
  | .caset start stop => c.cmdCaset :: (bytesOfHalf start ++ bytesOfHalf stop)
  | .raset start stop => c.cmdRaset :: (bytesOfHalf start ++ bytesOfHalf stop)
  | .ramwr => [c.cmdRamwr]
  | .madctl a => [c.cmdMadctl, a]
  | .unknown code => [code]

/-- The longest command, in bytes: a code and four parameters (30_encoding.md R44). -/
def longestCommand : Nat := 5

/-- The bytes of a table row's bits: bits 7:0 are the command byte, each later byte counts on from there, and every bit from `nbits` up is 0. -/
def tableBytes (nbits w : Nat) : List Byte :=
  (List.range longestCommand).map (fun k => BitVec.ofNat 8 ((w % 2 ^ nbits) / 2 ^ (8 * k)))

/-- The command the decoder reads from a table row's bits, under a configuration. -/
def decodeTableWordWith (c : Config) (nbits w : Nat) : Option Instr :=
  match decode c (tableBytes nbits w) with
  | .ok i _ => some i
  | .rejected _ => none

/-- The command the decoder of this hardware reads from a table row's bits. -/
def decodeTableWord (nbits w : Nat) : Option Instr := decodeTableWordWith Config.chip nbits w

end Sys2Proof
end

