-- ==== Sys2Proof/Machine/State.lean ====
section
/-! DEFINITION. The state of one instance of the block (spec/10_state.md R10 to R18, R25) with the configuration it is run under (R21), its inputs
(30_encoding.md R42), its outputs (43_lines_and_transport.md R90), and the state at power-on (10_state.md R24). -/

namespace Sys2Proof.Machine

/-- The two modes of the mode line (10_state.md R10). -/
inductive Mode where
  | command
  | data
deriving DecidableEq, Repr

/-- The parameter accumulator's record (10_state.md R13): the code, the count expected (1 to 4), and the parameters received, first first. -/
structure Pending where
  code : Byte
  expected : Nat
  args : List Byte
deriving DecidableEq, Repr

/-- The reason of the sticky fault mark (10_state.md R18, 42_pixel_writer.md R78). -/
inductive FaultMark where
  /-- A sample whose sink coordinates lie outside the surface. -/
  | outOfSurface (x y : Int)
deriving DecidableEq, Repr

/-- One input event (30_encoding.md R42). -/
inductive Event where
  /-- The transport delivers a received chunk (R85). -/
  | chunk (bytes : List Byte)
  /-- The mode-select line changed to `level`; `inflight` are the flushed bytes (R86). -/
  | modeLine (level : Level) (inflight : List Byte)
  /-- The select line changed to `level` (R87). -/
  | selectLine (level : Level) (inflight : List Byte)
  /-- The reset line changed to `level` (R88). -/
  | resetLine (level : Level)
  /-- The transport's zero-byte end of transfer (R89). -/
  | endOfTransfer
deriving DecidableEq, Repr

/-- One output effect (43_lines_and_transport.md R90). -/
inductive Output where
  /-- Ask the transport for the next chunk (R84, R86, R87). -/
  | requestChunk
  /-- Stop the transfer in flight (R86, R87). -/
  | stopTransfer
  /-- The pixel-sink write of `v` at byte offset `offset` (20_memory.md R30, 42_pixel_writer.md R77). -/
  | writePixel (offset : Nat) (v : Word)
  /-- `Diag(UnknownCommand, code)` (60_exceptions.md R95). -/
  | diagUnknownCommand (code : Byte)
deriving DecidableEq, Repr

/-- The sink's surface as bytes by offset (20_memory.md R31): offsets strictly rising. An offset that is not listed holds no value: nothing has
written it (log entry 5). -/
abbrev Memory := List Host.Cell

/-- The whole state. `mode` to `fault` are the spec's state of the block; `config` is its configuration, an argument of the machine that travels
with the state because a step has no other argument, and no event writes it (log entry 10); `surface`, `outputs` and `events` are the model's (log
entries 4 to 6). -/
@[ext]
structure State where
  /-- R21: the parameters, fixed at initialization. -/
  config : Config
  /-- R10: the last observed level of the mode line, as a mode. -/
  mode : Mode
  /-- R11: the select line is active. -/
  selected : Bool
  /-- R12: the reset line is asserted. -/
  resetAsserted : Bool
  /-- R13: the parameter accumulator. -/
  pending : Option Pending
  /-- R14: data-mode bytes are pixel samples. -/
  ramWriteActive : Bool
  /-- R15: first column of the window. -/
  colStart : Half
  /-- R15: last column of the window, inclusive. -/
  colEnd : Half
  /-- R15: first row of the window. -/
  rowStart : Half
  /-- R15: last row of the window, inclusive. -/
  rowEnd : Half
  /-- R16: the cursor's column. -/
  curCol : Half
  /-- R16: the cursor's row. -/
  curRow : Half
  /-- R17: the mirror-X flag. -/
  mirrorX : Bool
  /-- R17: the mirror-Y flag. -/
  mirrorY : Bool
  /-- R17: the swap-axes flag. -/
  swap : Bool
  /-- R18: the sticky fault mark. -/
  fault : Option FaultMark
  /-- The sink's bytes as the block's writes left them; the block never reads them (20_memory.md R33). -/
  surface : Memory
  /-- The effects emitted since power-on, oldest first (43_lines_and_transport.md R83, 20_memory.md R38). -/
  outputs : List Output
  /-- The input events not yet delivered, the next one first (30_encoding.md R42). -/
  events : List Event
deriving DecidableEq, Repr

/-- Why the machine stops with a fault. The block itself has no faults (60_exceptions.md R92). -/
inductive Fault where
  /-- Raised by `Machine.execute` when a command is executed with fewer parameters than its code's count: only from a `pending` record that
  breaks 10_state.md R13's invariant, which no run from power-on has. SAFE: the spec gives no effect there (41_commands.md R65). -/
  | truncatedCommand (code : Byte)
deriving DecidableEq, Repr

/-- Why the model gives a step no meaning. -/
inductive Refusal where
  /-- Answered by an arm of `exec` whose instruction has no meaning yet. SAFE. No arm answers it. -/
  | notModelled (mnemonic : String)
  /-- Raised by the mode-line and select-line events when the level does not change and bytes are in flight: the host duty of
  43_lines_and_transport.md R91 item 3, an event that "has no move". UNSAFE towards a host that breaks the duty, as R91 says. -/
  | repeatedLevelWithInflight
  /-- Raised by the mode-line event while not selected and by a selecting select-line event, when bytes are in flight: the host duty of R91
  item 4. UNSAFE towards a host that breaks the duty, as R91 says. -/
  | inflightWithoutTransfer
deriving DecidableEq, Repr

/-- The state at power-on of a block with a configuration (10_state.md R24, 70_reset_and_hazards.md R112): the reset values of R13 to R17, the
launch inputs, no reset asserted, no fault; nothing delivered, emitted or written yet. -/
def State.powerOn (c : Config) : State where
  config := c
  mode := if c.modeAtPowerOn = c.modeDataLevel then .data else .command
  selected := c.selectedAtPowerOn
  resetAsserted := false
  pending := none
  ramWriteActive := false
  colStart := 0
  colEnd := BitVec.ofNat 16 (c.width - 1)
  rowStart := c.resetRowStart
  rowEnd := c.resetRowEnd
  curCol := 0
  curRow := c.resetRowStart
  mirrorX := false
  mirrorY := false
  swap := false
  fault := none
  surface := []
  outputs := []
  events := []

/-- The state at power-on of this hardware. -/
def State.reset : State := State.powerOn Config.chip

end Sys2Proof.Machine
end

