-- ==== Sys2Proof/Machine/Ops.lean ====
section
/-! DEFINITION. The named operations over the surface's bytes, the registers and the outputs, and the reset procedure. The block has no exceptions
(spec/60_exceptions.md R92), so there is no exception entry here and no return from one. -/

namespace Sys2Proof.Machine

/-- What a step of this machine answers. -/
abbrev Result := Host.Outcome State Fault Refusal

/-- Go on with `f` from the next state; a fault or a refusal stands. -/
def andThen (o : Result) (f : State → Result) : Result :=
  match o with
  | .next s => f s
  | .fault r => .fault r
  | .refused r => .refused r

/-! ### The surface's bytes -/

/-- The byte at offset `a`; none where nothing has been written. -/
def Memory.read : Memory → Nat → Option Byte
  | [], _ => none
  | (b, v) :: m, a => if a = b then some v else Memory.read m a

/-- Write one byte, keeping the offsets strictly rising. -/
def Memory.write : Memory → Nat → Byte → Memory
  | [], a, v => [(a, v)]
  | (b, u) :: m, a, v =>
    if a < b then (a, v) :: (b, u) :: m
    else if a = b then (a, v) :: m
    else (b, u) :: Memory.write m a v

/-- The canonical form: offsets strictly rising. -/
abbrev Memory.wf (m : Memory) : Prop := m.Pairwise (fun p q => p.1 < q.1)

/-- The byte of `v` that the sink stores at `offset + k` (20_memory.md R36, D23). -/
def surfaceByte (o : ByteOrder) (v : Word) (k : Nat) : Byte :=
  match o with
  | .big => (v >>> (8 * (3 - k))).setWidth 8
  | .little => (v >>> (8 * k)).setWidth 8

/-- One `WritePixel` at the sink: the four bytes `offset .. offset+3` (20_memory.md R32). -/
def Memory.writeWord (m : Memory) (o : ByteOrder) (offset : Nat) (v : Word) : Memory :=
  (((m.write offset (surfaceByte o v 0)).write (offset + 1) (surfaceByte o v 1)).write (offset + 2) (surfaceByte o v 2)).write
    (offset + 3) (surfaceByte o v 3)

/-! ### Registers -/

/-- Set the mode (10_state.md R10). -/
def State.setMode (s : State) (m : Mode) : State := { s with mode := m }

/-- Set the select line's latched level (10_state.md R11). -/
def State.setSelected (s : State) (b : Bool) : State := { s with selected := b }

/-- Set the reset line's latched level (10_state.md R12). -/
def State.setResetAsserted (s : State) (b : Bool) : State := { s with resetAsserted := b }

/-- Set the parameter accumulator (10_state.md R13). -/
def State.setPending (s : State) (p : Option Pending) : State := { s with pending := p }

/-- Set the ram-write flag (10_state.md R14). -/
def State.setRamWriteActive (s : State) (b : Bool) : State := { s with ramWriteActive := b }

/-- Set the column window and put the column cursor at its start (10_state.md R15, R16; 41_commands.md R66). -/
def State.setColWindow (s : State) (start stop : Half) : State :=
  { s with colStart := start, colEnd := stop, curCol := start }

/-- Set the row window and put the row cursor at its start (10_state.md R15, R16; 41_commands.md R66). -/
def State.setRowWindow (s : State) (start stop : Half) : State :=
  { s with rowStart := start, rowEnd := stop, curRow := start }

/-- Set the cursor (10_state.md R16). -/
def State.setCursor (s : State) (col row : Half) : State := { s with curCol := col, curRow := row }

/-- Set the three orientation flags (10_state.md R17). -/
def State.setOrientation (s : State) (mirrorX mirrorY swap : Bool) : State :=
  { s with mirrorX := mirrorX, mirrorY := mirrorY, swap := swap }

/-- `fault(reason)`: set the sticky mark if it is not set (60_exceptions.md R93). -/
def State.markFault (s : State) (r : FaultMark) : State := { s with fault := s.fault.or (some r) }

/-- Set the events still to be delivered. -/
def State.setEvents (s : State) (es : List Event) : State := { s with events := es }

/-- `emit`: append one effect to the outputs (00_scope.md section 5). -/
def State.emit (s : State) (o : Output) : State := { s with outputs := s.outputs ++ [o] }

/-- `MemWrite(offset, 4, v)`: emit `WritePixel(offset, v)`, which the sink accepts (20_memory.md R30; R91 item 9). -/
def State.writePixel (s : State) (offset : Nat) (v : Word) : State :=
  { s with
    outputs := s.outputs ++ [.writePixel offset v]
    surface := s.surface.writeWord s.config.surfaceByteOrder offset v }

/-- `ResetProcedure()` (70_reset_and_hazards.md R111): `mode`, `selected`, `resetAsserted`, `fault` and the
configuration are not written. -/
def State.resetRegisters (s : State) : State :=
  { s with
    ramWriteActive := false
    pending := none
    colStart := 0
    colEnd := BitVec.ofNat 16 (s.config.width - 1)
    rowStart := s.config.resetRowStart
    rowEnd := s.config.resetRowEnd
    curCol := 0
    curRow := s.config.resetRowStart
    mirrorX := false
    mirrorY := false
    swap := false }

end Sys2Proof.Machine
end

