-- ==== Sys2Proof/Machine/Flags.lean ====
section
/-! DEFINITION. The flag computations: a line's level as a mode or as active (spec/00_scope.md R6), and the orientation flags of MADCTL's
parameter byte (30_encoding.md R45). -/

namespace Sys2Proof.Machine

/-- Data when the level equals `MODE_DATA_LEVEL`, Command otherwise (10_state.md R10). -/
def modeOfLevel (c : Config) (level : Level) : Mode := if level = c.modeDataLevel then .data else .command

/-- The select line is active at this level (10_state.md R11). -/
def selectActive (c : Config) (level : Level) : Bool := level == c.selectActiveLevel

/-- The reset line is asserted at this level (10_state.md R12). -/
def resetActive (c : Config) (level : Level) : Bool := level == c.resetActiveLevel

/-- `a[BIT_MIRROR_X]` (30_encoding.md R45). -/
def mirrorXOf (c : Config) (a : Byte) : Bool := a.getLsbD c.bitMirrorX

/-- `a[BIT_MIRROR_Y]` (30_encoding.md R45). -/
def mirrorYOf (c : Config) (a : Byte) : Bool := a.getLsbD c.bitMirrorY

/-- `a[BIT_SWAP]` (30_encoding.md R45). -/
def swapOf (c : Config) (a : Byte) : Bool := a.getLsbD c.bitSwap

end Sys2Proof.Machine
end

