-- ==== Sys2Proof/Machine/AddressSet.lean ====
section
/-! DEFINITION. The addressing commands CASET and RASET (spec/41_commands.md R66, R69, R70). -/

namespace Sys2Proof.Machine

/-- The axis a command names (R66). -/
inductive Axis where
  | column
  | row
deriving DecidableEq, Repr

/-- `Other(axis)` (R66). -/
def otherAxis : Axis → Axis
  | .column => .row
  | .row => .column

/-- `AddressSet(nominal, ...)` (R66): both bounds and the cursor of the axis that swap chooses; no range check. -/
def addressSet (nominal : Axis) (start stop : Half) (s : State) : State :=
  match (if s.swap then otherAxis nominal else nominal) with
  | .column => s.setColWindow start stop
  | .row => s.setRowWindow start stop

/-- CASET (R69). -/
def execCaset (start stop : Half) (s : State) : Result := .next (addressSet .column start stop s)

/-- RASET (R70). -/
def execRaset (start stop : Half) (s : State) : Result := .next (addressSet .row start stop s)

end Sys2Proof.Machine
end

