-- ==== Sys2Proof/Machine/Control.lean ====
section
/-! DEFINITION. The commands RAMWR, MADCTL and UNKNOWN (spec/41_commands.md R67, R68, R71). -/

namespace Sys2Proof.Machine

/-- RAMWR (R67): the ram-write flag only; the cursor does not move. -/
def execRamwr (s : State) : Result := .next (s.setRamWriteActive true)

/-- MADCTL (R68): the three orientation flags at once; bits 4:0 have no effect. -/
def execMadctl (a : Byte) (s : State) : Result :=
  .next (s.setOrientation (mirrorXOf s.config a) (mirrorYOf s.config a) (swapOf s.config a))

/-- UNKNOWN (R71): the diagnostic, no state change. -/
def execUnknown (code : Byte) (s : State) : Result := .next (s.emit (.diagUnknownCommand code))

end Sys2Proof.Machine
end

