-- ==== Sys2Proof/Machine/Dispatch.lean ====
section
/-! DEFINITION. `Execute` (spec/41_commands.md R65): one arm per constructor of `Instr`, each one call of its meaning. -/

namespace Sys2Proof.Machine

def exec (i : Instr) (s : State) : Host.Outcome State Fault Refusal :=
  match i with
  | .caset start stop => Sys2Proof.Machine.execCaset start stop s
  | .raset start stop => Sys2Proof.Machine.execRaset start stop s
  | .ramwr => Sys2Proof.Machine.execRamwr s
  | .madctl arg => Sys2Proof.Machine.execMadctl arg s
  | .unknown code => Sys2Proof.Machine.execUnknown code s

end Sys2Proof.Machine
end

