-- ==== Sys2Proof/Machine/Operands.lean ====
section
/-! DEFINITION. The operand forms: pixel samples of a chunk, the colour conversion, and the sink coordinates of the cursor. -/

namespace Sys2Proof.Machine

/-- The whole samples of a pixel chunk, each big-endian; an odd trailing byte is dropped (30_encoding.md R47, 40_protocol.md R59). -/
def samplesOf : List Byte → List Half
  | h :: l :: bs => halfOfBytes h l :: samplesOf bs
  | _ => []

/-- `RGB565toRGBA32` (42_pixel_writer.md R76): a plain shift of each field into its byte, alpha 0xFF. -/
def rgba32OfRgb565 (smp : Half) : Word :=
  0xFF000000 ||| ((smp &&& 0xF800).setWidth 32 <<< 8) ||| ((smp &&& 0x07E0).setWidth 32 <<< 5) |||
    ((smp &&& 0x001F).setWidth 32 <<< 3)

/-- A coordinate, mirrored within `size` or not, on integers (42_pixel_writer.md R75). -/
def mirrored (mirror : Bool) (size : Nat) (c : Half) : Int :=
  if mirror then ((size : Int) - 1) - (c.toNat : Int) else (c.toNat : Int)

/-- `SinkXY`'s x: from the column, mirrored by mirror-X when swap is set and by mirror-Y when it is clear (42_pixel_writer.md R75). -/
def sinkX (s : State) : Int := mirrored (if s.swap then s.mirrorX else s.mirrorY) s.config.width s.curCol

/-- `SinkXY`'s y: from the row, mirrored by mirror-Y when swap is set and by mirror-X when it is clear (42_pixel_writer.md R75). -/
def sinkY (s : State) : Int := mirrored (if s.swap then s.mirrorY else s.mirrorX) s.config.height s.curRow

/-- The byte offset of the pixel `(x, y)`, none outside the surface (42_pixel_writer.md R77, R78). -/
def surfaceOffset (c : Config) (x y : Int) : Option Nat :=
  if 0 ≤ x ∧ x < c.width ∧ 0 ≤ y ∧ y < c.height then
    some ((y.toNat * c.width + x.toNat) * 4)
  else none

/-- The byte offset the next sample is written at, none when it lies outside the surface. -/
def sinkOffset (s : State) : Option Nat := surfaceOffset s.config (sinkX s) (sinkY s)

end Sys2Proof.Machine
end

