-- ==== Sys2Proof/Machine/PixelWriter.lean ====
section
/-! DEFINITION. The pixel writer (spec/42_pixel_writer.md): what one sample does, and the cursor's advance. -/

namespace Sys2Proof.Machine

/-- The increment exceeds the bound; compared before any truncation to 16 bits (R79, R80). -/
def axisWraps (cur stop : Half) : Bool := decide (cur.toNat + 1 > stop.toNat)

/-- One step along an axis: the start of the window after its end, the next coordinate otherwise (R79). -/
def axisNext (cur start stop : Half) : Half :=
  if axisWraps cur stop then start else BitVec.ofNat 16 (cur.toNat + 1)

/-- `Advance()` (R79): the fast axis steps, and where it wraps the slow axis steps too. -/
def advance (s : State) : State :=
  if s.swap then
    s.setCursor (if axisWraps s.curRow s.rowEnd then axisNext s.curCol s.colStart s.colEnd else s.curCol)
      (axisNext s.curRow s.rowStart s.rowEnd)
  else
    s.setCursor (axisNext s.curCol s.colStart s.colEnd)
      (if axisWraps s.curCol s.colEnd then axisNext s.curRow s.rowStart s.rowEnd else s.curRow)

/-- Steps (a) to (c) of `PixelWrite`: the converted sample at the cursor's sink position, or the mark (R75 to R78). -/
def writeSample (smp : Half) (s : State) : State :=
  match sinkOffset s with
  | some offset => s.writePixel offset (rgba32OfRgb565 smp)
  | none => s.markFault (.outOfSurface (sinkX s) (sinkY s))

/-- `PixelWrite(smp)` (R74): write, then advance, whether or not the write happened. -/
def pixelWrite (smp : Half) (s : State) : State := advance (writeSample smp s)

/-- The samples of a chunk, first sample first (40_protocol.md R59, 20_memory.md R38). -/
def pixelWrites : List Half → State → State
  | [], s => s
  | smp :: smps, s => pixelWrites smps (pixelWrite smp s)

end Sys2Proof.Machine
end

