-- ==== Sys2Proof/Machine/Protocol.lean ====
section
/-! DEFINITION. The protocol state machine (spec/40_protocol.md): how the bytes of a chunk are read as command bytes, parameters or samples. -/

namespace Sys2Proof.Machine

/-- `Execute(code, args)` (41_commands.md R65): decode the complete command and run it. Parameters are missing only where `pending` breaks
10_state.md R13's invariant; that is a fault of its own. -/
def execute (code : Byte) (args : List Byte) (s : State) : Result :=
  match decode s.config (code :: args) with
  | .ok i _ => exec i s
  | .rejected _ => .fault (.truncatedCommand code)

/-- `CommandByte(b)` (R57): discard any incomplete command, then execute or start accumulating. -/
def commandByte (b : Byte) (s : State) : Result :=
  if argCount s.config b = 0 then execute b [] (s.setPending none)
  else .next (s.setPending (some { code := b, expected := argCount s.config b, args := [] }))

/-- Each byte of a command-mode chunk, in bus order (R56). -/
def commandBytes : List Byte → State → Result
  | [], s => .next s
  | b :: bs, s => andThen (commandByte b s) (commandBytes bs)

/-- `CommandChunk(bs)` (R56): the ram-write flag is cleared at the start of every command-mode chunk. -/
def commandChunk (bs : List Byte) (s : State) : Result := commandBytes bs (s.setRamWriteActive false)

/-- `ParamByte(b)` (R61); a byte with no pending command is discarded (R62). -/
def paramByte (b : Byte) (s : State) : Result :=
  match s.pending with
  | none => .next s
  | some p =>
    if (p.args ++ [b]).length = p.expected then execute p.code (p.args ++ [b]) (s.setPending none)
    else .next (s.setPending (some { p with args := p.args ++ [b] }))

/-- `ParamChunk(bs)` (R60). -/
def paramBytes : List Byte → State → Result
  | [], s => .next s
  | b :: bs, s => andThen (paramByte b s) (paramBytes bs)

/-- `PixelChunk(bs)` (R59). -/
def pixelChunk (bs : List Byte) (s : State) : State := pixelWrites (samplesOf bs) s

/-- `DataChunk(bs)` (R58). -/
def dataChunk (bs : List Byte) (s : State) : Result :=
  if s.ramWriteActive then .next (pixelChunk bs s) else paramBytes bs s

/-- `ProcessChunk(bs)` (R55). -/
def processChunk (bs : List Byte) (s : State) : Result :=
  match s.mode with
  | .command => commandChunk bs s
  | .data => dataChunk bs s

end Sys2Proof.Machine
end

