-- ==== Sys2Proof/Machine/Events.lean ====
section
/-! DEFINITION. One event, one atomic step (spec/43_lines_and_transport.md R83 to R89), and placing a command for the next step. -/

namespace Sys2Proof.Machine

/-- `if s.selected: emit RequestChunk` (R84, R86). -/
def requestIfSelected (s : State) : State := if s.selected then s.emit .requestChunk else s

/-- The bytes of a flush: none are not processed, they are "end of transfer, zero bytes" (R86, R89). -/
def flush (inflight : List Byte) (s : State) : Result :=
  match inflight with
  | [] => .next s
  | _ :: _ => processChunk inflight s

/-- `Chunk(bs)` (R85), with the pull loop's request after it (R84). -/
def chunkEvent (bs : List Byte) (s : State) : Result :=
  andThen (processChunk bs s) (fun t => .next (requestIfSelected t))

/-- `ModeLine(level, inflight)` (R86): flush under the old mode, then the mode, then the restart. Bytes in flight at a repeated level, or with no
transfer, have no move (R91 items 3 and 4). -/
def modeLineEvent (level : Level) (inflight : List Byte) (s : State) : Result :=
  if modeOfLevel s.config level = s.mode then
    if inflight = [] then .next s else .refused .repeatedLevelWithInflight
  else if s.selected then
    andThen (flush inflight (s.emit .stopTransfer)) (fun t => .next (requestIfSelected (t.setMode (modeOfLevel s.config level))))
  else
    if inflight = [] then .next (s.setMode (modeOfLevel s.config level)) else .refused .inflightWithoutTransfer

/-- `SelectLine(level, inflight)` (R87): selecting requests the first chunk; deselecting stops, flushes, and ends the pull loop. -/
def selectLineEvent (level : Level) (inflight : List Byte) (s : State) : Result :=
  if selectActive s.config level = s.selected then
    if inflight = [] then .next s else .refused .repeatedLevelWithInflight
  else if selectActive s.config level then
    if inflight = [] then .next ((s.setSelected true).emit .requestChunk) else .refused .inflightWithoutTransfer
  else
    andThen (flush inflight (s.emit .stopTransfer)) (fun t => .next (t.setSelected false))

/-- `ResetLine(level)` (R88): only the transition to active resets. -/
def resetLineEvent (level : Level) (s : State) : Result :=
  if resetActive s.config level then
    if s.resetAsserted then .next s else .next (s.setResetAsserted true).resetRegisters
  else .next (s.setResetAsserted false)

/-- `EndOfTransfer` (R89): no state change, no output. -/
def endOfTransferEvent (s : State) : Result := .next s

/-- `Step(s, e)` (R83). -/
def runEvent (e : Event) (s : State) : Result :=
  match e with
  | .chunk bs => chunkEvent bs s
  | .modeLine level inflight => modeLineEvent level inflight s
  | .selectLine level inflight => selectLineEvent level inflight s
  | .resetLine level => resetLineEvent level s
  | .endOfTransfer => endOfTransferEvent s

/-- Deliver the next event; with none to deliver the block waits (log entry 4). -/
def runNextEvent (s : State) : Result :=
  match s.events with
  | [] => .next s
  | e :: es => runEvent e (s.setEvents es)

/-- The state in which the next event completes the command whose bytes are given: the command byte as a command-mode chunk, or, for a code with
parameters, its record pending and the parameters as a data-mode chunk (30_encoding.md R49; log entry 7). -/
def placeCommand (bytes : List Byte) (s : State) : State :=
  match bytes with
  | [] => s
  | code :: params =>
    if argCount s.config code = 0 then
      { s with mode := .command, events := .chunk [code] :: s.events }
    else
      { s with
        mode := .data
        ramWriteActive := false
        pending := some { code := code, expected := argCount s.config code, args := [] }
        events := .chunk (params.take (argCount s.config code)) :: s.events }

end Sys2Proof.Machine
end

