-- ==== Sys2Proof/Machine/Step.lean ====
section
/-! DEFINITION. One step of the machine, and a table row's command placed for the next step. -/

namespace Sys2Proof.Machine

/-- One step: the next event, processed completely (spec/43_lines_and_transport.md R83). -/
def step (s : State) : Host.Outcome State Fault Refusal := runNextEvent s

/-- `s` with the command of a table row's bits placed so that the next step runs it (log entry 7). -/
def State.withFetchWord (s : State) (nbits w : Nat) : State := placeCommand (tableBytes nbits w) s

end Sys2Proof.Machine
end

