-- ==== Sys2Proof/Machine/Pseudo.lean ====
section
/-! DEFINITION. The event notation and the pseudo-events of spec/30_encoding.md R50 and R51, each the list of events it stands
for, under a configuration. -/

namespace Sys2Proof.Machine

/-- `MODE C | ...` (R50). -/
def Pseudo.modeC (c : Config) (inflight : List Byte) : Event := .modeLine (!c.modeDataLevel) inflight
/-- `MODE D | ...` (R50). -/
def Pseudo.modeD (c : Config) (inflight : List Byte) : Event := .modeLine c.modeDataLevel inflight
/-- `SEL 1` (R50). -/
def Pseudo.select (c : Config) : Event := .selectLine c.selectActiveLevel []
/-- `SEL 0 | ...` (R50). -/
def Pseudo.deselect (c : Config) (inflight : List Byte) : Event := .selectLine (!c.selectActiveLevel) inflight
/-- `RST 1` (R50). -/
def Pseudo.resetOn (c : Config) : Event := .resetLine c.resetActiveLevel
/-- `RST 0` (R50). -/
def Pseudo.resetOff (c : Config) : Event := .resetLine (!c.resetActiveLevel)
/-- `RESET` (R51). -/
def Pseudo.reset (c : Config) : List Event := [Pseudo.resetOn c, Pseudo.resetOff c]
/-- `CMD c p0 ... pn-1` (R51). -/
def Pseudo.cmd (c : Config) (code : Byte) : List Byte → List Event
  | [] => [Pseudo.modeC c [], .chunk [code]]
  | p :: ps => [Pseudo.modeC c [], .chunk [code], Pseudo.modeD c [], .chunk (p :: ps)]
/-- The pseudo-event of a command: its code and parameters (R51). -/
def Pseudo.instr (c : Config) (i : Instr) : List Event :=
  match encode c i with
  | [] => []
  | code :: ps => Pseudo.cmd c code ps
/-- `PIXELS v0 ... vk-1` (R51). -/
def Pseudo.pixels (c : Config) (vs : List Half) : List Event := [Pseudo.modeD c [], .chunk (vs.flatMap bytesOfHalf)]

end Sys2Proof.Machine
end

