-- ==== Sys2Proof/Safety.lean ====
section
/-! DEFINITION. What counts as a safe run (spec/60_exceptions.md R93), and the invariant every step keeps. -/

namespace Sys2Proof.Machine

/-- A run's state is safe when the fault mark is not set (60_exceptions.md R93). -/
def State.Safe (s : State) : Prop := s.fault = none

/-- 10_state.md R13's invariant of the parameter accumulator: the count is the code's, between 1 and 4, and fewer parameters are held. -/
def State.PendingOk (s : State) : Prop :=
  ∀ p, s.pending = some p → p.expected = argCount s.config p.code ∧ 1 ≤ p.expected ∧ p.expected ≤ 4 ∧ p.args.length < p.expected

/-- 10_state.md R16's invariant of the cursor, an axis at a time: it stands in a window whose start does not exceed its end. -/
def State.CursorOk (s : State) : Prop :=
  (s.colStart ≤ s.colEnd → s.colStart ≤ s.curCol ∧ s.curCol ≤ s.colEnd) ∧
  (s.rowStart ≤ s.rowEnd → s.rowStart ≤ s.curRow ∧ s.curRow ≤ s.rowEnd)

/-- The fault mark's reason is a position outside the surface (42_pixel_writer.md R78). -/
def State.FaultOk (s : State) : Prop :=
  ∀ x y, s.fault = some (.outOfSurface x y) → surfaceOffset s.config x y = none

/-- A pixel-sink write is aligned, inside the surface, and of a fully opaque word (20_memory.md R31, R32; 42_pixel_writer.md R76). -/
def Output.Ok (c : Config) : Output → Prop
  | .writePixel offset v => offset % 4 = 0 ∧ offset < c.surfaceBytes ∧ v >>> 24 = 0xFF
  | .requestChunk => True
  | .stopTransfer => True
  | .diagUnknownCommand code => ¬ recognised c code

/-- Every effect emitted so far is one the block may emit (43_lines_and_transport.md R90). -/
def State.OutputsOk (s : State) : Prop := ∀ o ∈ s.outputs, o.Ok s.config

/-- The surface's bytes after the writes among some effects, in order. -/
def replayOutputs (o : ByteOrder) : List Output → Memory → Memory
  | [], m => m
  | .writePixel offset v :: os, m => replayOutputs o os (m.writeWord o offset v)
  | .requestChunk :: os, m => replayOutputs o os m
  | .stopTransfer :: os, m => replayOutputs o os m
  | .diagUnknownCommand _ :: os, m => replayOutputs o os m

/-- The surface holds what the emitted writes left, and nothing else (20_memory.md R30, R33). -/
def State.SurfaceOk (s : State) : Prop :=
  s.surface.wf ∧ (∀ c ∈ s.surface, c.1 < s.config.surfaceBytes) ∧ s.surface = replayOutputs s.config.surfaceByteOrder s.outputs []

/-- The invariant of the block: the configuration's parameters are ones 00_scope.md R7 allows, and all of the above. -/
structure State.Inv (s : State) : Prop where
  config : s.config.Admitted
  pending : s.PendingOk
  cursor : s.CursorOk
  fault : s.FaultOk
  outputs : s.OutputsOk
  surface : s.SurfaceOk

end Sys2Proof.Machine
end

