-- ==== Sys2Proof/Certificates/Slice0/Obligations.lean ====
section
/-! DEFINITION. The statements for the provers, from the numbered rules of spec/. They hold for every configuration the state carries (00_scope.md
R6, 10_state.md R21), with the constraints of R7 (`Config.Admitted`) as a premise where they are needed. Where a statement rests on a decision of
the spec (D<n> of 92_eei_decisions.md) or of the model (a log entry), its docstring says so. -/

open Sys2Proof Sys2Proof.Machine

namespace Sys2Proof.Claims

/-- Deliver chunks one after another, each as a `Chunk` event. -/
def deliverChunks : List (List Byte) → State → Result
  | [], s => .next s
  | c :: cs, s => andThen (chunkEvent c s) (deliverChunks cs)

/-- The same state, and the same effects but for the transport's requests and stops. -/
def SameButTransport (s t : State) : Prop :=
  { s with outputs := [] } = { t with outputs := [] } ∧
  s.outputs.filter (fun o => o ≠ .requestChunk ∧ o ≠ .stopTransfer) =
    t.outputs.filter (fun o => o ≠ .requestChunk ∧ o ≠ .stopTransfer)

/-- The bytes an event carries. -/
def eventBytes : Event → List Byte
  | .chunk bs => bs
  | .modeLine _ bs => bs
  | .selectLine _ bs => bs
  | .resetLine _ => []
  | .endOfTransfer => []

/-- The event breaks a duty of the host (43_lines_and_transport.md R91 items 3 and 4). -/
def BreaksHostDuty (e : Event) (s : State) : Prop :=
  match e with
  | .modeLine level bs => bs ≠ [] ∧ (modeOfLevel s.config level = s.mode ∨ s.selected = false)
  | .selectLine level bs => bs ≠ [] ∧ (selectActive s.config level = s.selected ∨ selectActive s.config level = true)
  | .chunk _ => False
  | .resetLine _ => False
  | .endOfTransfer => False

/-- The bytes of the event are processed as a command-mode chunk: a chunk, or a non-empty flush at a transition (R85 to R87). -/
def CommandModeBytes (e : Event) (s : State) : Prop :=
  s.mode = .command ∧
  match e with
  | .chunk _ => True
  | .modeLine _ bs => bs ≠ []
  | .selectLine _ bs => bs ≠ []
  | .resetLine _ => False
  | .endOfTransfer => False

/-- The event is the transition of the reset line to active (R88). -/
def IsResetTransition (e : Event) (s : State) : Prop :=
  match e with
  | .resetLine level => level = s.config.resetActiveLevel ∧ s.resetAsserted = false
  | .chunk _ => False
  | .modeLine _ _ => False
  | .selectLine _ _ => False
  | .endOfTransfer => False

/-- The pending command, if there is one, is none of the address sets. -/
def NoAddressSetPending (s : State) : Prop :=
  ∀ p, s.pending = some p → p.code ≠ s.config.cmdCaset ∧ p.code ≠ s.config.cmdRaset

/-- What is pending after command bytes: the last byte decides, and no byte keeps what was pending (40_protocol.md R57). -/
def pendingAfter (c : Config) (bs : List Byte) (q : Option Pending) : Option Pending :=
  match bs.getLast? with
  | none => q
  | some b => if argCount c b = 0 then none else some { code := b, expected := argCount c b, args := [] }

/-- The reports of the unknown codes among command bytes, in order (41_commands.md R71). -/
def reportsOf (c : Config) : List Byte → List Output
  | [] => []
  | b :: bs => if recognised c b then reportsOf c bs else .diagUnknownCommand b :: reportsOf c bs

/-- The column of raster index `k` of the window (42_pixel_writer.md R81). -/
def rasterCol (s : State) (k : Nat) : Nat :=
  if s.swap then s.colStart.toNat + k / (s.rowEnd.toNat - s.rowStart.toNat + 1)
  else s.colStart.toNat + k % (s.colEnd.toNat - s.colStart.toNat + 1)

/-- The row of raster index `k` of the window (42_pixel_writer.md R81). -/
def rasterRow (s : State) (k : Nat) : Nat :=
  if s.swap then s.rowStart.toNat + k % (s.rowEnd.toNat - s.rowStart.toNat + 1)
  else s.rowStart.toNat + k / (s.colEnd.toNat - s.colStart.toNat + 1)

/-- The window's area (42_pixel_writer.md R81). -/
def windowArea (s : State) : Nat :=
  (s.colEnd.toNat - s.colStart.toNat + 1) * (s.rowEnd.toNat - s.rowStart.toNat + 1)

/-- The cursor stands in a window that is not empty on either axis. -/
def CursorInWindow (s : State) : Prop :=
  s.colStart ≤ s.curCol ∧ s.curCol ≤ s.colEnd ∧ s.rowStart ≤ s.curRow ∧ s.curRow ≤ s.rowEnd

/-- The axis steps first: before its end, an advance moves only it (42_pixel_writer.md R79, R82's fast axis). -/
def IsFastAxis (axis : Axis) (s : State) : Prop :=
  match axis with
  | .column => s.curCol < s.colEnd → advance s = { s with curCol := s.curCol + 1 }
  | .row => s.curRow < s.rowEnd → advance s = { s with curRow := s.curRow + 1 }

/-- The big-endian value of two bytes, as a number. -/
def bigEndian (h l : Byte) : Half := BitVec.ofNat 16 (h.toNat * 256 + l.toNat)

/-- The state after an address set of the column axis (41_commands.md R66). -/
def withColumn (s : State) (start stop : Half) : State := { s with colStart := start, colEnd := stop, curCol := start }

/-- The state after an address set of the row axis (41_commands.md R66). -/
def withRow (s : State) (start stop : Half) : State := { s with rowStart := start, rowEnd := stop, curRow := start }

end Sys2Proof.Claims

open Sys2Proof.Claims

/-! ### Encoding (30_encoding.md) -/

/-- Under every admitted configuration, every well-formed command, with every operand at every value, decodes back from its bytes, whatever follows
them. -/
def Obligations.DecodeOfEncodeIsIdentity : Prop :=
  ∀ c : Config, c.Admitted → ∀ (i : Instr) (rest : List Byte), WellFormed c i = true →
    decode c (encode c i ++ rest) = .ok i rest

/-- What the decoder accepts is well formed, and encodes to the very bytes read. -/
def Obligations.EncodeOfDecodeIsIdentity : Prop :=
  ∀ (c : Config) (bs : List Byte) (i : Instr) (rest : List Byte),
    decode c bs = .ok i rest → WellFormed c i = true ∧ encode c i ++ rest = bs

/-- A code with its counted parameters decodes and exactly they are read; with fewer, it is rejected by name. -/
def Obligations.DecodeReadsExactlyTheCountedParameters : Prop :=
  ∀ c : Config, c.Admitted → ∀ (code : Byte) (ps : List Byte),
    (argCount c code ≤ ps.length → ∃ i, decode c (code :: ps) = .ok i (ps.drop (argCount c code))) ∧
    (ps.length < argCount c code → decode c (code :: ps) = .rejected (.missingParameters code))

/-- R44: the parameter count of every code. -/
def Obligations.ArgCountIsTheFixedTable : Prop :=
  ∀ c : Config, c.Admitted → argCount c c.cmdMadctl = 1 ∧ argCount c c.cmdCaset = 4 ∧ argCount c c.cmdRaset = 4 ∧
    argCount c c.cmdRamwr = 0 ∧
    ∀ code : Byte, code ≠ c.cmdMadctl → code ≠ c.cmdCaset → code ≠ c.cmdRaset → argCount c code = 0

/-- Words of each table row, under this hardware's parameters, written out from R43, R45 and R46 (the codes are decision D2's). -/
def Obligations.RowWordsDecodeToTheirCommands : Prop :=
  decode Config.chip [0x2A, 0x01, 0x02, 0x00, 0x05] = .ok (.caset 258 5) [] ∧
  decode Config.chip [0x2B, 0xFF, 0xFF, 0x00, 0x00] = .ok (.raset 65535 0) [] ∧
  decode Config.chip [0x2C] = .ok .ramwr [] ∧ decode Config.chip [0x36, 0xA0] = .ok (.madctl 0xA0) [] ∧
  decode Config.chip [0x00] = .ok (.unknown 0x00) [] ∧ decode Config.chip [0x01] = .ok (.unknown 0x01) [] ∧
  decode Config.chip [0x2D] = .ok (.unknown 0x2D) [] ∧ decode Config.chip [0xFF] = .ok (.unknown 0xFF) []

/-- Two bytes are read big-endian, the first the more significant, and every 16-bit value is written back as the bytes it is read from. -/
def Obligations.HalvesAreBigEndian : Prop :=
  (∀ h l : Byte, (halfOfBytes h l).toNat = h.toNat * 256 + l.toNat) ∧
  (∀ v : Half, ∃ h l, bytesOfHalf v = [h, l] ∧ halfOfBytes h l = v)

/-! ### The step -/

/-- When the bytes the next event delivers complete a command, the step is that command's meaning, at the state with the event taken and the
accumulator cleared, and then the pull loop's request: (1) a command byte, (2) the last parameters of a pending command. -/
def Obligations.StepRunsTheCommandItReads : Prop :=
  (∀ (s : State) (code : Byte) (es : List Event) (i : Instr),
    s.config.Admitted → s.events = .chunk [code] :: es → s.mode = .command → decode s.config [code] = .ok i [] →
    WellFormed s.config i = true →
    step s = andThen (exec i { s with events := es, ramWriteActive := false, pending := none })
      (fun t => .next (requestIfSelected t))) ∧
  (∀ (s : State) (p : Pending) (bs : List Byte) (es : List Event) (i : Instr),
    s.events = .chunk bs :: es → s.mode = .data → s.ramWriteActive = false → s.pending = some p → bs ≠ [] →
    (p.args ++ bs).length = p.expected → decode s.config (p.code :: (p.args ++ bs)) = .ok i [] →
    WellFormed s.config i = true →
    step s = andThen (exec i { s with events := es, pending := none }) (fun t => .next (requestIfSelected t)))

/-- A table row's command placed in any state is the command the next step runs (log entry 7: how it is placed is the model's choice). -/
def Obligations.StepRunsThePlacedCommand : Prop :=
  ∀ (s : State) (nbits w : Nat) (i : Instr), s.config.Admitted →
    decodeTableWordWith s.config nbits w = some i →
    step (s.withFetchWord nbits w) =
      andThen (exec i { s with
          mode := if argCount s.config (BitVec.ofNat 8 (w % 2 ^ nbits)) = 0 then .command else .data
          ramWriteActive := false
          pending := none }) (fun t => .next (requestIfSelected t))

/-- The pseudo-events of a command (R51), delivered to a block that is not selected, run that command: the machine's run over them is the
command's meaning, in the mode the last chunk was sent in. -/
def Obligations.PseudoEventsRunTheirCommand : Prop :=
  ∀ (i : Instr) (s : State) (es : List Event), s.config.Admitted → WellFormed s.config i = true → s.selected = false →
    s.events = Pseudo.instr s.config i ++ es →
    core.run (Pseudo.instr s.config i).length s =
      exec i { s with
        events := es
        mode := if (encode s.config i).length = 1 then .command else .data
        pending := none
        ramWriteActive := false }

/-- With no event delivered the block waits: the model's choice (log entry 4). -/
def Obligations.NoEventNoChange : Prop :=
  ∀ s : State, s.events = [] → step s = .next s

/-- Every event from a host that keeps its duties has a step, and it keeps the accumulator's invariant (R83, R92); no step faults. -/
def Obligations.EveryEventHasAStep : Prop :=
  ∀ s : State, s.config.Admitted → s.PendingOk →
    (∀ r, step s ≠ .fault r) ∧
    ((∀ e es, s.events = e :: es → ¬ BreaksHostDuty e s) → ∃ t, step s = .next t ∧ t.PendingOk)

/-- A step has no move exactly for the events that break the host duties of R91 items 3 and 4 (decisions D18 to D20), under a refusal of its own
name. R91 gives an event that breaks any duty no move: that duties 2, 5 and 9 are not checked, and streams that break them run, is the model's
choice (log entry 9). -/
def Obligations.DutyBreakingEventsHaveNoMove : Prop :=
  ∀ s : State,
    ((∃ r, step s = .refused r) ↔ ∃ e es, s.events = e :: es ∧ BreaksHostDuty e s) ∧
    (∀ r, step s = .refused r → r = .repeatedLevelWithInflight ∨ r = .inflightWithoutTransfer)

/-! ### Commands (41_commands.md) -/

/-- CASET and RASET (R66), on the bounds and from the bytes, executed at once or delivered byte by byte: the axis that swap chooses gets both
bounds and its cursor at the start, and nothing else changes. That the swap flag at the command byte decides (the last two clauses) is the spec's
own inference, marked so in R66. -/
def Obligations.AddressSetSetsTheAxisSwapChooses : Prop :=
  ∀ (s : State) (p0 p1 p2 p3 : Byte),
    let start := bigEndian p0 p1
    let stop := bigEndian p2 p3
    exec (.caset start stop) s = .next (if s.swap then withRow s start stop else withColumn s start stop) ∧
    exec (.raset start stop) s = .next (if s.swap then withColumn s start stop else withRow s start stop) ∧
    (s.config.Admitted →
      execute s.config.cmdCaset [p0, p1, p2, p3] s = exec (.caset start stop) s ∧
      execute s.config.cmdRaset [p0, p1, p2, p3] s = exec (.raset start stop) s ∧
      andThen (commandByte s.config.cmdCaset s) (paramBytes [p0, p1, p2, p3]) =
        .next (if s.swap then withRow { s with pending := none } start stop else withColumn { s with pending := none } start stop) ∧
      andThen (commandByte s.config.cmdRaset s) (paramBytes [p0, p1, p2, p3]) =
        .next (if s.swap then withColumn { s with pending := none } start stop else withRow { s with pending := none } start stop))

/-- CASET and RASET complete from every state with every pair of bounds, `start > end` included, with exactly the axis's three registers
written (R69, R70; conflict C6's resolution). -/
def Obligations.CasetAndRasetComplete : Prop :=
  ∀ (s : State) (start stop : Half),
    exec (.caset start stop) s = .next (if s.swap then withRow s start stop else withColumn s start stop) ∧
    exec (.raset start stop) s = .next (if s.swap then withColumn s start stop else withRow s start stop)

/-- R67: RAMWR is one byte, sets the flag and nothing else (the cursor stays), also when executed twice, and the write stays active over
data-mode chunks and mode transitions to Data, until a command-mode chunk starts. -/
def Obligations.RamwrSetsTheRamWriteFlagOnly : Prop :=
  (∀ c : Config, encode c .ramwr = [c.cmdRamwr] ∧ (c.Admitted → argCount c c.cmdRamwr = 0)) ∧
  (∀ s : State, exec .ramwr s = .next { s with ramWriteActive := true }) ∧
  (∀ s : State, andThen (exec .ramwr s) (exec .ramwr) = .next { s with ramWriteActive := true }) ∧
  (∀ (s t : State) (bs : List Byte), s.mode = .data → s.ramWriteActive = true → processChunk bs s = .next t →
    t.ramWriteActive = true) ∧
  (∀ (s t : State) (level : Level), modeOfLevel s.config level = .data → s.ramWriteActive = true →
    modeLineEvent level [] s = .next t → t.ramWriteActive = true) ∧
  (∀ s : State, s.mode = .command → processChunk [] s = .next { s with ramWriteActive := false })

/-- MADCTL sets the three flags from its byte's bits, nothing else, and the other five bits have no effect. Which bit is which flag is a
parameter, for this hardware the spec's decision D3 (the last clause). -/
def Obligations.MadctlSetsTheOrientationFlags : Prop :=
  (∀ (s : State) (a : Byte), exec (.madctl a) s =
    .next { s with
      mirrorX := a.getLsbD s.config.bitMirrorX
      mirrorY := a.getLsbD s.config.bitMirrorY
      swap := a.getLsbD s.config.bitSwap }) ∧
  (∀ (s : State) (a b : Byte), s.config.Admitted → a >>> 5 = b >>> 5 → exec (.madctl a) s = exec (.madctl b) s) ∧
  (∀ (s : State) (a : Byte), s.mirrorX = a.getLsbD s.config.bitMirrorX → s.mirrorY = a.getLsbD s.config.bitMirrorY →
    s.swap = a.getLsbD s.config.bitSwap → exec (.madctl a) s = .next s) ∧
  (∀ (s : State) (a : Byte), s.config = Config.chip → exec (.madctl a) s =
    .next { s with mirrorX := a.getLsbD 7, mirrorY := a.getLsbD 6, swap := a.getLsbD 5 })

/-- UNKNOWN emits its diagnostic and changes nothing; its command byte also discards a pending command, and leaves the ram-write flag. The form
of the report is the spec's decision D22. -/
def Obligations.UnknownOnlyReports : Prop :=
  (∀ (s : State) (code : Byte), exec (.unknown code) s =
    .next { s with outputs := s.outputs ++ [.diagUnknownCommand code] }) ∧
  (∀ (s : State) (code : Byte), ¬ recognised s.config code → commandByte code s =
    .next { s with pending := none, outputs := s.outputs ++ [.diagUnknownCommand code] })

/-- The frame of the five commands: what each leaves unchanged. No command stores to the surface. -/
def Obligations.CommandsLeaveTheRestUnchanged : Prop :=
  ∀ (i : Instr) (s t : State), exec i s = .next t →
    t.config = s.config ∧ t.mode = s.mode ∧ t.selected = s.selected ∧ t.resetAsserted = s.resetAsserted ∧ t.pending = s.pending ∧
    t.fault = s.fault ∧ t.events = s.events ∧ (∀ a, t.surface.read a = s.surface.read a) ∧
    ((∀ c, i ≠ .unknown c) → t.outputs = s.outputs) ∧
    (i ≠ .ramwr → t.ramWriteActive = s.ramWriteActive) ∧
    ((∀ a, i ≠ .madctl a) → t.mirrorX = s.mirrorX ∧ t.mirrorY = s.mirrorY ∧ t.swap = s.swap) ∧
    ((∀ a b, i = .caset a b → s.swap = true) → (∀ a b, i = .raset a b → s.swap = false) →
      t.colStart = s.colStart ∧ t.colEnd = s.colEnd ∧ t.curCol = s.curCol) ∧
    ((∀ a b, i = .caset a b → s.swap = false) → (∀ a b, i = .raset a b → s.swap = true) →
      t.rowStart = s.rowStart ∧ t.rowEnd = s.rowEnd ∧ t.curRow = s.curRow)

/-- No command reads or writes the mode, the lines' levels, the accumulator or the mark: changing them before a command is changing them after. -/
def Obligations.CommandsIgnoreParserAndLineState : Prop :=
  ∀ (i : Instr) (s t : State) (m : Mode) (b c : Bool) (p : Option Pending) (f : Option FaultMark), exec i s = .next t →
    exec i { s with mode := m, selected := b, resetAsserted := c, pending := p, fault := f } =
      .next { t with mode := m, selected := b, resetAsserted := c, pending := p, fault := f }

/-- The laws of the command set (R72): a parameterless code executed twice leaves the state of once (each unknown execution reports), and MADCTL
is idempotent. MADCTL and CASET in the two orders agree exactly when MADCTL keeps swap or both axes already hold what CASET sets: the rule's
"differs whenever the MADCTL changes swap" leaves that coincidence out. -/
def Obligations.CommandSetLaws : Prop :=
  (∀ (code : Byte) (s t : State), argCount s.config code = 0 → execute code [] s = .next t →
    execute code [] t = .next (if code = s.config.cmdRamwr then t
      else { t with outputs := t.outputs ++ [.diagUnknownCommand code] })) ∧
  (∀ (a : Byte) (s : State), andThen (exec (.madctl a) s) (exec (.madctl a)) = exec (.madctl a) s) ∧
  (∀ (a : Byte) (start stop : Half) (s : State),
    andThen (exec (.madctl a) s) (exec (.caset start stop)) = andThen (exec (.caset start stop) s) (exec (.madctl a)) ↔
      swapOf s.config a = s.swap ∨ (s = withColumn s start stop ∧ s = withRow s start stop))

/-! ### Protocol (40_protocol.md) -/

/-- A chunk is routed by the mode, and in data mode by the ram-write flag (R55, R58). The spec's own inferences are stated as well: both are read
once; neither changes in data mode, the mode never; the transport is asked for nothing; while pixels flow a pending command stays pending. -/
def Obligations.ChunksAreRoutedByModeAndRamWriteFlag : Prop :=
  ∀ (s : State) (bs : List Byte),
    (s.mode = .command → processChunk bs s = commandChunk bs s) ∧
    (s.mode = .data → s.ramWriteActive = true → processChunk bs s = .next (pixelChunk bs s)) ∧
    (s.mode = .data → s.ramWriteActive = false → processChunk bs s = paramBytes bs s) ∧
    (pixelChunk bs s).pending = s.pending ∧ (pixelChunk bs s).ramWriteActive = s.ramWriteActive ∧
    (s.pending = none → paramBytes bs s = .next s) ∧
    (∀ t, processChunk bs s = .next t → t.mode = s.mode ∧
      ∃ outs, t.outputs = s.outputs ++ outs ∧ Output.requestChunk ∉ outs ∧ Output.stopTransfer ∉ outs) ∧
    (∀ t, s.config.Admitted → s.PendingOk → paramBytes bs s = .next t → t.ramWriteActive = s.ramWriteActive)

/-- Everything a command-mode chunk does (R56), read off its bytes. The ram-write flag is cleared at its start, even by an empty chunk, and left set
exactly when RAMWR's code is among the bytes; the last byte decides what is pending; each unknown code is reported. That an empty chunk keeps
what is pending is the spec's own inference, and the form of the reports is its decision D22 (log entry 1). -/
def Obligations.CommandChunksAreReadOffTheirBytes : Prop :=
  ∀ (s : State) (bs : List Byte), s.config.Admitted → commandChunk bs s = .next { s with
    ramWriteActive := decide (s.config.cmdRamwr ∈ bs)
    pending := pendingAfter s.config bs s.pending
    outputs := s.outputs ++ reportsOf s.config bs }

/-- R57: a command byte executes at once when its count is 0 and starts accumulating otherwise; either way any incomplete command is discarded,
parameters and all. It always completes. -/
def Obligations.CommandBytesStartFresh : Prop :=
  ∀ (s : State) (b : Byte),
    (argCount s.config b = 0 → ∃ i, decode s.config [b] = .ok i [] ∧ commandByte b s = exec i { s with pending := none }) ∧
    (argCount s.config b ≠ 0 → commandByte b s =
      .next { s with pending := some { code := b, expected := argCount s.config b, args := [] } }) ∧
    (∀ q, commandByte b { s with pending := q } = commandByte b s) ∧
    ∃ t, commandByte b s = .next t

/-- A parameter byte is appended, and the command executes exactly when the count is reached, with the accumulator already cleared (R61). Chunk
boundaries and line transitions without bytes leave the accumulator as it is. That with nothing pending the byte is skipped (the first clause) is
the spec's decision D16 (log entry 1). -/
def Obligations.ParameterBytesAccumulate : Prop :=
  (∀ (s : State) (b : Byte), s.pending = none → paramByte b s = .next s) ∧
  (∀ (s : State) (p : Pending) (b : Byte), s.pending = some p → p.args.length + 1 ≠ p.expected →
    paramByte b s = .next { s with pending := some { code := p.code, expected := p.expected, args := p.args ++ [b] } }) ∧
  (∀ (s : State) (p : Pending) (b : Byte), s.config.Admitted → s.PendingOk → s.pending = some p →
    p.args.length + 1 = p.expected → ∃ i t, decode s.config (p.code :: (p.args ++ [b])) = .ok i [] ∧
      paramByte b s = exec i { s with pending := none } ∧ paramByte b s = .next t ∧ t.pending = none ∧ t.outputs = s.outputs) ∧
  (∀ (s t : State) (level : Level),
    modeLineEvent level [] s = .next t ∨ selectLineEvent level [] s = .next t ∨ endOfTransferEvent s = .next t ∨
      chunkEvent [] s = .next t → t.pending = s.pending)

/-- Parameter bytes with nothing pending, and surplus bytes after a complete command, do nothing and are not kept (R62; "no-op" is read so by the
spec's decision D16). -/
def Obligations.SurplusBytesAreDiscarded : Prop :=
  (∀ (s : State) (bs : List Byte), s.pending = none → paramBytes bs s = .next s) ∧
  (∀ (s : State) (p : Pending) (ps rest : List Byte), s.PendingOk → s.pending = some p →
    p.args.length + ps.length = p.expected → paramBytes (ps ++ rest) s = paramBytes ps s)

/-- R119: a pending command is still pending after a step, with the parameters it had, unless the step processed command bytes, was the reset
transition, or completed the command with parameter bytes. -/
def Obligations.IncompleteCommandsSurvive : Prop :=
  ∀ (s t : State) (p : Pending), s.pending = some p → step s = .next t →
    (∃ q, t.pending = some q ∧ q.code = p.code ∧ q.expected = p.expected ∧ p.args <+: q.args) ∨
    (∃ e es, s.events = e :: es ∧ CommandModeBytes e s ∧ eventBytes e ≠ []) ∨
    (∃ e es, s.events = e :: es ∧ IsResetTransition e s) ∨
    (∃ e es, s.events = e :: es ∧ s.mode = .data ∧ s.ramWriteActive = false ∧
      p.expected ≤ p.args.length + (eventBytes e).length)

/-- A command interrupted by a command byte leaves no trace: the parameters it had received have no effect, and a mode-line transition without
bytes discards nothing (R64; conflict C4's resolution). -/
def Obligations.InterruptedCommandsLeaveNoTrace : Prop :=
  (∀ (s : State) (p : Pending) (ps : List Byte) (b : Byte), s.pending = some p → p.args.length + ps.length < p.expected →
    paramBytes ps s = .next { s with pending := some { p with args := p.args ++ ps } } ∧
    andThen (paramBytes ps s) (commandByte b) = commandByte b { s with pending := none }) ∧
  (∀ (s t : State) (level : Level), modeLineEvent level [] s = .next t → t.pending = s.pending)

/-- A pixel chunk feeds its samples to the pixel writer one by one, in order, as a delivered chunk does before its request; it holds `length / 2`
samples, the i-th from bytes 2i and 2i+1, big-endian; an odd trailing byte is dropped without a trace, and neither the accumulator nor the window
is touched (R59; not reporting the drop is the spec's decision D17). -/
def Obligations.PixelChunksAreFramedInPairs : Prop :=
  (∀ (s : State) (bs : List Byte), pixelChunk bs s = pixelWrites (samplesOf bs) s) ∧
  (∀ s : State, pixelWrites [] s = s) ∧
  (∀ (s : State) (smps : List Half) (i : Nat) (smp : Half), smps[i]? = some smp →
    pixelWrites (smps.take (i + 1)) s = pixelWrite smp (pixelWrites (smps.take i) s)) ∧
  (∀ (s : State) (bs : List Byte) (es : List Event), s.events = .chunk bs :: es → s.mode = .data → s.ramWriteActive = true →
    step s = .next (requestIfSelected (pixelWrites (samplesOf bs) { s with events := es }))) ∧
  (∀ bs : List Byte, (samplesOf bs).length = bs.length / 2) ∧
  (∀ (bs : List Byte) (i : Nat) (h l : Byte), bs[2 * i]? = some h → bs[2 * i + 1]? = some l →
    (samplesOf bs)[i]? = some (bigEndian h l)) ∧
  (∀ (s : State) (bs : List Byte) (b : Byte), bs.length % 2 = 0 → pixelChunk (bs ++ [b]) s = pixelChunk bs s) ∧
  (∀ (s : State) (bs : List Byte), (pixelChunk bs s).pending = s.pending ∧
    (pixelChunk bs s).colStart = s.colStart ∧ (pixelChunk bs s).colEnd = s.colEnd ∧
    (pixelChunk bs s).rowStart = s.rowStart ∧ (pixelChunk bs s).rowEnd = s.rowEnd)

/-- The chunk-boundary laws (R63): the same bytes in other chunks give the same state and the same effects but for the transport's requests. (1)
Parameter bytes, split anywhere. (2) Pixel bytes, split between samples. (3) Command bytes, but for the ram-write flag, which the last chunk
decides. -/
def Obligations.ChunkBoundariesDoNotMatter : Prop :=
  (∀ (s : State) (cs ds : List (List Byte)), s.config.Admitted → s.PendingOk → s.mode = .data → s.ramWriteActive = false →
    cs.flatten = ds.flatten →
    ∃ t u, deliverChunks cs s = .next t ∧ deliverChunks ds s = .next u ∧ SameButTransport t u) ∧
  (∀ (s : State) (cs ds : List (List Byte)), s.mode = .data → s.ramWriteActive = true →
    (∀ c ∈ cs, c.length % 2 = 0) → (∀ d ∈ ds, d.length % 2 = 0) → cs.flatten = ds.flatten →
    ∃ t u, deliverChunks cs s = .next t ∧ deliverChunks ds s = .next u ∧ SameButTransport t u) ∧
  (∀ (s : State) (cs ds : List (List Byte)), s.config.Admitted → s.mode = .command → cs.flatten = ds.flatten →
    ∃ t u, deliverChunks cs s = .next t ∧ deliverChunks ds s = .next u ∧
      SameButTransport t { u with ramWriteActive := t.ramWriteActive } ∧
      (∀ c, cs.getLast? = some c → t.ramWriteActive = decide (s.config.cmdRamwr ∈ c)))

/-- Bytes that reach the block as the flush of a mode-line transition act as the same bytes in a chunk before the transition: the bus-realistic
form of R51 (the flush's order is the spec's decision D18). -/
def Obligations.FlushedBytesActAsAChunk : Prop :=
  ∀ (s t : State) (level : Level) (bs : List Byte), bs ≠ [] → s.selected = true → modeOfLevel s.config level ≠ s.mode →
    modeLineEvent level bs s = .next t →
    ∃ u, andThen (chunkEvent bs s) (modeLineEvent level []) = .next u ∧ SameButTransport t u

/-! ### Pixel writer (42_pixel_writer.md) -/

/-- R75: the sink coordinates, on integers; x always from the column and y from the row. -/
def Obligations.SinkCoordinatesFollowTheFlags : Prop :=
  ∀ s : State,
    (s.swap = true →
      sinkX s = (if s.mirrorX then ((s.config.width : Int) - 1) - s.curCol.toNat else s.curCol.toNat) ∧
      sinkY s = (if s.mirrorY then ((s.config.height : Int) - 1) - s.curRow.toNat else s.curRow.toNat)) ∧
    (s.swap = false →
      sinkX s = (if s.mirrorY then ((s.config.width : Int) - 1) - s.curCol.toNat else s.curCol.toNat) ∧
      sinkY s = (if s.mirrorX then ((s.config.height : Int) - 1) - s.curRow.toNat else s.curRow.toNat))

/-- The eight rows of the transform table (R82), each after the MADCTL byte of its row: the byte in which exactly the bits of the row's flags are
set. -/
def Obligations.TransformTableRows : Prop :=
  ∀ (s : State) (x y : Bool) (w : Bool),
    let a : Byte := (if x then 1 <<< s.config.bitMirrorX else 0) ||| (if y then 1 <<< s.config.bitMirrorY else 0) |||
      (if w then 1 <<< s.config.bitSwap else 0)
    s.config.Admitted → ∃ t, exec (.madctl a) s = .next t ∧ t.mirrorX = x ∧ t.mirrorY = y ∧ t.swap = w ∧
      sinkX t = (match x, y, w with
        | false, false, false => (s.curCol.toNat : Int)
        | false, true, false => ((s.config.width : Int) - 1) - (s.curCol.toNat : Int)
        | true, false, false => (s.curCol.toNat : Int)
        | true, true, false => ((s.config.width : Int) - 1) - (s.curCol.toNat : Int)
        | false, false, true => (s.curCol.toNat : Int)
        | false, true, true => (s.curCol.toNat : Int)
        | true, false, true => ((s.config.width : Int) - 1) - (s.curCol.toNat : Int)
        | true, true, true => ((s.config.width : Int) - 1) - (s.curCol.toNat : Int)) ∧
      sinkY t = (match x, y, w with
        | false, false, false => (s.curRow.toNat : Int)
        | false, true, false => (s.curRow.toNat : Int)
        | true, false, false => ((s.config.height : Int) - 1) - (s.curRow.toNat : Int)
        | true, true, false => ((s.config.height : Int) - 1) - (s.curRow.toNat : Int)
        | false, false, true => (s.curRow.toNat : Int)
        | false, true, true => ((s.config.height : Int) - 1) - (s.curRow.toNat : Int)
        | true, false, true => (s.curRow.toNat : Int)
        | true, true, true => ((s.config.height : Int) - 1) - (s.curRow.toNat : Int)) ∧
      IsFastAxis (if w then .row else .column) t

/-- The conversion (R76), field by field: alpha 0xFF (in bits 31 to 24 by the spec's own inference), each colour's bits at the top of its byte,
zeros below; and the rule's two values. -/
def Obligations.ColourConversionIsAPlainShift : Prop :=
  (∀ smp : Half,
    (rgba32OfRgb565 smp).extractLsb' 24 8 = 0xFF ∧
    (rgba32OfRgb565 smp).extractLsb' 19 5 = smp.extractLsb' 11 5 ∧ (rgba32OfRgb565 smp).extractLsb' 16 3 = 0 ∧
    (rgba32OfRgb565 smp).extractLsb' 10 6 = smp.extractLsb' 5 6 ∧ (rgba32OfRgb565 smp).extractLsb' 8 2 = 0 ∧
    (rgba32OfRgb565 smp).extractLsb' 3 5 = smp.extractLsb' 0 5 ∧ (rgba32OfRgb565 smp).extractLsb' 0 3 = 0) ∧
  rgba32OfRgb565 0xFFFF = 0xFFF8FCF8 ∧ rgba32OfRgb565 0x07E0 = 0xFF00FC00

/-- The advance (R79), in numbers that no bound truncates (the spec's decision D15): the fast axis steps, past its end it returns to its start and
the slow axis steps alike; all else is unchanged. A one-pixel window keeps the cursor, and an axis whose start exceeds its end returns to its start
at every step. -/
def Obligations.AdvanceStepsTheFastAxisFirst : Prop :=
  ∀ s : State, ∃ c r : Half, advance s = { s with curCol := c, curRow := r } ∧
    (s.swap = false →
      (s.curCol.toNat + 1 ≤ s.colEnd.toNat → c.toNat = s.curCol.toNat + 1 ∧ r = s.curRow) ∧
      (s.colEnd.toNat < s.curCol.toNat + 1 → c = s.colStart ∧
        (s.curRow.toNat + 1 ≤ s.rowEnd.toNat → r.toNat = s.curRow.toNat + 1) ∧
        (s.rowEnd.toNat < s.curRow.toNat + 1 → r = s.rowStart))) ∧
    (s.swap = true →
      (s.curRow.toNat + 1 ≤ s.rowEnd.toNat → r.toNat = s.curRow.toNat + 1 ∧ c = s.curCol) ∧
      (s.rowEnd.toNat < s.curRow.toNat + 1 → r = s.rowStart ∧
        (s.curCol.toNat + 1 ≤ s.colEnd.toNat → c.toNat = s.curCol.toNat + 1) ∧
        (s.colEnd.toNat < s.curCol.toNat + 1 → c = s.colStart))) ∧
    (s.curCol = s.colStart → s.colStart = s.colEnd → s.curRow = s.rowStart → s.rowStart = s.rowEnd → advance s = s) ∧
    (s.swap = false → s.curCol = s.colStart → s.colEnd < s.colStart → c = s.colStart) ∧
    (s.swap = true → s.curRow = s.rowStart → s.rowEnd < s.rowStart → r = s.rowStart)

/-- A sample whose sink position lies in the surface, in the window or not, is written once, at `(y*WIDTH+x)*4` (R77), a multiple of 4 inside the
surface (the spec's own inference from the bounds); the mark is not touched, and then the cursor advances. The field `surface` that holds the
written word is the model's own (log entry 5), and so is `outputs` (log entry 6). -/
def Obligations.SamplesInsideTheSurfaceAreWritten : Prop :=
  ∀ (s : State) (smp : Half) (x y : Nat), sinkX s = x → sinkY s = y → x < s.config.width →
    y < s.config.height →
    let k := (y * s.config.width + x) * 4
    pixelWrite smp s = advance { s with
      outputs := s.outputs ++ [.writePixel k (rgba32OfRgb565 smp)]
      surface := s.surface.writeWord s.config.surfaceByteOrder k (rgba32OfRgb565 smp) } ∧
    k % 4 = 0 ∧ k + 4 ≤ s.config.surfaceBytes

/-- A sample whose sink position lies outside the surface emits nothing and writes nothing, marks the fault if none is marked, and the cursor
advances all the same; it takes a cursor at or beyond the surface's width or height (R78: the spec's decision D14). -/
def Obligations.SamplesOutsideTheSurfaceMarkTheFault : Prop :=
  ∀ (s : State) (smp : Half),
    (sinkX s < 0 ∨ (s.config.width : Int) ≤ sinkX s ∨ sinkY s < 0 ∨ (s.config.height : Int) ≤ sinkY s →
      pixelWrite smp s = advance { s with
        fault := match s.fault with
          | none => some (.outOfSurface (sinkX s) (sinkY s))
          | some r => some r } ∧
      (s.config.width ≤ s.curCol.toNat ∨ s.config.height ≤ s.curRow.toNat)) ∧
    (pixelWrite smp s).curCol = (advance s).curCol ∧ (pixelWrite smp s).curRow = (advance s).curRow

/-- The frame of one sample: it writes the four bytes at its offset and no other byte, and of the registers only the cursor and the mark. -/
def Obligations.SamplesWriteTheirFourBytesOnly : Prop :=
  ∀ (s : State) (smp : Half),
    let t := pixelWrite smp s
    (∀ k, sinkOffset s = some k →
      (∀ j, j < 4 → t.surface.read (k + j) = some (surfaceByte s.config.surfaceByteOrder (rgba32OfRgb565 smp) j)) ∧
      (∀ a, a < k ∨ k + 4 ≤ a → t.surface.read a = s.surface.read a) ∧ t.fault = s.fault) ∧
    (sinkOffset s = none → (∀ a, t.surface.read a = s.surface.read a) ∧ t.outputs = s.outputs) ∧
    t.config = s.config ∧ t.mode = s.mode ∧ t.selected = s.selected ∧ t.resetAsserted = s.resetAsserted ∧
    t.pending = s.pending ∧ t.ramWriteActive = s.ramWriteActive ∧ t.colStart = s.colStart ∧ t.colEnd = s.colEnd ∧ t.rowStart = s.rowStart ∧
    t.rowEnd = s.rowEnd ∧ t.mirrorX = s.mirrorX ∧ t.mirrorY = s.mirrorY ∧ t.swap = s.swap ∧ t.events = s.events

/-- The raster law (R81): from raster index k0 of a window, N samples leave the cursor at index (k0 + N) mod A, inside the window. -/
def Obligations.RasterLaw : Prop :=
  ∀ (s : State) (k0 : Nat) (smps : List Half), s.colStart ≤ s.colEnd → s.rowStart ≤ s.rowEnd → k0 < windowArea s →
    s.curCol.toNat = rasterCol s k0 → s.curRow.toNat = rasterRow s k0 →
    let t := pixelWrites smps s
    t.curCol.toNat = rasterCol s ((k0 + smps.length) % windowArea s) ∧
    t.curRow.toNat = rasterRow s ((k0 + smps.length) % windowArea s) ∧ CursorInWindow t

/-- In a window that lies inside the surface, with the cursor in it, every sample is written, in order, and no fault is marked (R118): the i-th
write is the i-th sample's converted word, at the offset of the cursor that the samples before it leave. -/
def Obligations.WindowsInsideTheSurfaceNeverFault : Prop :=
  ∀ (s : State) (smps : List Half), CursorInWindow s → s.colEnd.toNat < s.config.width →
    s.rowEnd.toNat < s.config.height →
    (pixelWrites smps s).fault = s.fault ∧
    ∃ ws, (pixelWrites smps s).outputs = s.outputs ++ ws ∧ ws.length = smps.length ∧
      ∀ (i : Nat) (smp : Half), smps[i]? = some smp →
        ∃ k, sinkOffset (pixelWrites (smps.take i) s) = some k ∧ ws[i]? = some (.writePixel k (rgba32OfRgb565 smp))

/-! ### Events and reset (43_lines_and_transport.md, 70_reset_and_hazards.md) -/

/-- The pull loop: a chunk is processed and then, if the block is selected, one request is emitted; no event emits two; an empty chunk clears the
ram-write flag in command mode and changes nothing in data mode (R84, R85; decisions D18, D21). -/
def Obligations.PullLoopRequestsOncePerEvent : Prop :=
  (∀ (s t : State) (bs : List Byte) (es : List Event), s.events = .chunk bs :: es → step s = .next t →
    ∃ u, processChunk bs { s with events := es } = .next u ∧
      t = (if s.selected then { u with outputs := u.outputs ++ [.requestChunk] } else u)) ∧
  (∀ s t : State, step s = .next t → ∃ outs, t.outputs = s.outputs ++ outs ∧ outs.count .requestChunk ≤ 1) ∧
  (∀ s : State, s.mode = .command → processChunk [] s = .next { s with ramWriteActive := false }) ∧
  (∀ s : State, s.mode = .data → processChunk [] s = .next s)

/-- A mode-line event (R86): no transition, no effect; not selected, only the mode; selected, stop, the flush under the old mode if it has
bytes, the new mode, one request. The order is the spec's decision D18, the repeated level decision D19. -/
def Obligations.ModeLineTransition : Prop :=
  ∀ (s : State) (level : Level) (es : List Event),
    (∀ bs, modeOfLevel s.config level = s.mode → bs = [] → s.events = .modeLine level bs :: es → step s = .next { s with events := es }) ∧
    (modeOfLevel s.config level ≠ s.mode → s.selected = false → s.events = .modeLine level [] :: es →
      step s = .next { s with events := es, mode := modeOfLevel s.config level }) ∧
    (modeOfLevel s.config level ≠ s.mode → s.selected = true → s.events = .modeLine level [] :: es →
      step s = .next { s with
        events := es, mode := modeOfLevel s.config level, outputs := s.outputs ++ [.stopTransfer, .requestChunk] }) ∧
    (∀ b bs, modeOfLevel s.config level ≠ s.mode → s.selected = true → s.events = .modeLine level (b :: bs) :: es →
      step s = andThen (processChunk (b :: bs) { s with events := es, outputs := s.outputs ++ [.stopTransfer] })
        (fun t => .next { t with mode := modeOfLevel s.config level, outputs := t.outputs ++ [.requestChunk] }))

/-- A select-line event (R87): no transition, no effect; selecting emits one request; deselecting stops, processes the flush if it has bytes,
and requests nothing. Both are the spec's decision D20. -/
def Obligations.SelectLineTransition : Prop :=
  ∀ (s : State) (level : Level) (es : List Event),
    (selectActive s.config level = s.selected → s.events = .selectLine level [] :: es → step s = .next { s with events := es }) ∧
    (selectActive s.config level = true → s.selected = false → s.events = .selectLine level [] :: es →
      step s = .next { s with events := es, selected := true, outputs := s.outputs ++ [.requestChunk] }) ∧
    (selectActive s.config level = false → s.selected = true → s.events = .selectLine level [] :: es →
      step s = .next { s with events := es, selected := false, outputs := s.outputs ++ [.stopTransfer] }) ∧
    (∀ b bs, selectActive s.config level = false → s.selected = true → s.events = .selectLine level (b :: bs) :: es →
      step s = andThen (processChunk (b :: bs) { s with events := es, outputs := s.outputs ++ [.stopTransfer] })
        (fun t => .next { t with selected := false }))

/-- A reset-line event (R88, R111): only the transition to active resets, and it leaves the mode, the select level, the mark, the outputs and the
surface. The values are the spec's decisions D9 to D13 and its two OPEN parameters (log entry 2). -/
def Obligations.ResetLineTransition : Prop :=
  ∀ (s : State) (level : Level) (es : List Event), s.events = .resetLine level :: es →
    (level = s.config.resetActiveLevel → s.resetAsserted = false → step s = .next { s with
      events := es, resetAsserted := true, ramWriteActive := false, pending := none
      colStart := 0, colEnd := BitVec.ofNat 16 (s.config.width - 1)
      rowStart := s.config.resetRowStart, rowEnd := s.config.resetRowEnd
      curCol := 0, curRow := s.config.resetRowStart, mirrorX := false, mirrorY := false, swap := false }) ∧
    (level = s.config.resetActiveLevel → s.resetAsserted = true → step s = .next { s with events := es }) ∧
    (level ≠ s.config.resetActiveLevel → step s = .next { s with events := es, resetAsserted := false })

/-- R89: the end of a transfer changes nothing and emits nothing, unlike an empty chunk, which while selected in command mode clears the ram-write
flag and requests. -/
def Obligations.EndOfTransferDoesNothing : Prop :=
  (∀ (s : State) (es : List Event), s.events = .endOfTransfer :: es → step s = .next { s with events := es }) ∧
  (∀ (s : State) (es : List Event), s.mode = .command → s.selected = true → s.events = .chunk [] :: es →
    step s = .next { s with events := es, ramWriteActive := false, outputs := s.outputs ++ [.requestChunk] })

/-- The state at power-on (R24), for every configuration, and this hardware's: the values are the spec's decisions D8 to D12 and its OPEN parameters
(log entries 2 and 3); nothing is delivered, emitted or written yet (log entries 4 to 6). -/
def Obligations.PowerOnState : Prop :=
  (∀ c : Config, let s := State.powerOn c
    s.resetRegisters = s ∧ s.resetAsserted = false ∧ s.Safe ∧ s.selected = c.selectedAtPowerOn ∧
    s.mode = modeOfLevel c c.modeAtPowerOn ∧ s.events = [] ∧ s.outputs = [] ∧ (∀ a, s.surface.read a = none) ∧
    (c.Admitted → s.colEnd.toNat = c.width - 1)) ∧
  State.reset = State.powerOn Config.chip

/-! ### The whole machine -/

/-- The invariant holds at power-on, under every admitted configuration and under this hardware's. -/
def Obligations.InvAtPowerOn : Prop := (∀ c : Config, c.Admitted → (State.powerOn c).Inv) ∧ State.reset.Inv

/-- Every step keeps the invariant: the configuration's, the accumulator's, the cursor's in each window that is not empty, the mark's, the outputs',
and the surface in its canonical form and holding exactly what the emitted writes left. -/
def Obligations.EveryStepKeepsInv : Prop :=
  ∀ s t : State, s.Inv → step s = .next t → t.Inv

/-- R33 (an inference of the spec's own): the block never reads the surface: with other bytes there, a step does the same but for the surface; no
write is outside it; and a word written twice is as written once. -/
def Obligations.SurfaceNeverFeedsBack : Prop :=
  (∀ (s t : State) (m : Memory), step s = .next t → ∃ n, step { s with surface := m } = .next { t with surface := n }) ∧
  (∀ (s : State) (m : Memory) (r : Fault), step s = .fault r → step { s with surface := m } = .fault r) ∧
  (∀ (s : State) (m : Memory) (r : Refusal), step s = .refused r → step { s with surface := m } = .refused r) ∧
  (∀ (s t : State), step s = .next t → ∃ outs, t.outputs = s.outputs ++ outs ∧
    ∀ k v, Output.writePixel k v ∈ outs → k < s.config.surfaceBytes) ∧
  (∀ (m : Memory) (o : ByteOrder) (k : Nat) (v : Word), m.wf → (m.writeWord o k v).writeWord o k v = m.writeWord o k v)

/-- Which steps may change which register (the "written by" column of R23). -/
def Obligations.WhoWritesEachRegister : Prop :=
  ∀ (s t : State) (e : Event) (es : List Event), s.events = e :: es → step s = .next t →
    t.config = s.config ∧ t.events = es ∧
    ((∀ l bs, e ≠ .modeLine l bs) → t.mode = s.mode) ∧
    ((∀ l bs, e ≠ .selectLine l bs) → t.selected = s.selected) ∧
    ((∀ l, e ≠ .resetLine l) → t.resetAsserted = s.resetAsserted) ∧
    (¬ IsResetTransition e s →
      (s.mode = .command ∨ s.ramWriteActive = true ∨ NoAddressSetPending s → t.colStart = s.colStart ∧
        t.colEnd = s.colEnd ∧ t.rowStart = s.rowStart ∧ t.rowEnd = s.rowEnd) ∧
      (s.mode = .command ∨ (s.ramWriteActive = false ∧ NoAddressSetPending s) →
        t.curCol = s.curCol ∧ t.curRow = s.curRow) ∧
      (s.mode = .command ∨ s.ramWriteActive = true ∨ (∀ p, s.pending = some p → p.code ≠ s.config.cmdMadctl) →
        t.mirrorX = s.mirrorX ∧ t.mirrorY = s.mirrorY ∧ t.swap = s.swap)) ∧
    (s.mode = .command ∨ s.ramWriteActive = false → t.fault = s.fault ∧ t.surface = s.surface)

/-- The ram-write flag (R14, as the spec's conflict C1 resolves it, log entry 1: only a chunk's start clears it, so it stays set after the bytes 2C
00) after a step: whether RAMWR is among the bytes of a command-mode chunk, false after the reset transition, otherwise as it was; and data mode is
routed by it. It is false at power-on. -/
def Obligations.RamWriteFlagWriters : Prop :=
  (∀ (s t : State) (e : Event) (es : List Event), s.config.Admitted → s.PendingOk → s.events = e :: es → step s = .next t →
    (CommandModeBytes e s → t.ramWriteActive = decide (s.config.cmdRamwr ∈ eventBytes e)) ∧
    (IsResetTransition e s → t.ramWriteActive = false) ∧
    (¬ CommandModeBytes e s → ¬ IsResetTransition e s → t.ramWriteActive = s.ramWriteActive)) ∧
  (∀ (s : State) (bs : List Byte), s.mode = .data →
    processChunk bs s = if s.ramWriteActive then .next (pixelChunk bs s) else paramBytes bs s) ∧
  ∀ c : Config, (State.powerOn c).ramWriteActive = false

/-- The fault mark keeps its first reason for ever and is not set at power-on (R18, R93: the spec's decision D14). -/
def Obligations.FaultMarkIsSticky : Prop :=
  (∀ (s t : State) (r : FaultMark), s.fault = some r → step s = .next t → t.fault = some r) ∧
  ∀ c : Config, (State.powerOn c).fault = none

/-- Effects are only ever appended (R38): a step's outputs come after all that were emitted before, and the first of a selected flush is the stop. -/
def Obligations.OutputsOnlyGrow : Prop :=
  (∀ s t : State, step s = .next t → s.outputs <+: t.outputs) ∧
  (∀ (s t : State) (level : Level) (bs : List Byte) (es : List Event), s.events = .modeLine level bs :: es →
    s.selected = true → modeOfLevel s.config level ≠ s.mode → step s = .next t → (s.outputs ++ [.stopTransfer]) <+: t.outputs)

/-! ### The configuration (00_scope.md section 4) -/

/-- No event and no command writes a parameter, over any number of steps (R21), and the block runs under the configuration it is powered on with.
That the configuration stands in the state is the model's own choice (log entry 10). -/
def Obligations.ConfigurationIsNeverWritten : Prop :=
  (∀ s t : State, step s = .next t → t.config = s.config) ∧
  (∀ (i : Instr) (s t : State), exec i s = .next t → t.config = s.config) ∧
  (∀ (n : Nat) (s t : State), core.run n s = .next t → t.config = s.config) ∧
  (∀ c : Config, (State.powerOn c).config = c)

/-- The parameters of this hardware: the values of R6's table that are not OPEN (the spec's decisions D2 to D7), and that they meet R7. -/
def Obligations.ChipHasTheSpecsParameters : Prop :=
  State.reset.config.width = 128 ∧ State.reset.config.height = 160 ∧
  State.reset.config.cmdCaset = 0x2A ∧ State.reset.config.cmdRaset = 0x2B ∧
  State.reset.config.cmdRamwr = 0x2C ∧ State.reset.config.cmdMadctl = 0x36 ∧
  State.reset.config.bitMirrorX = 7 ∧ State.reset.config.bitMirrorY = 6 ∧ State.reset.config.bitSwap = 5 ∧
  State.reset.config.modeDataLevel = true ∧ State.reset.config.selectActiveLevel = false ∧
  State.reset.config.resetActiveLevel = false ∧ State.reset.config.Admitted
end

