-- ==== Sys2Proof/Laws/Decode.lean ====
section
/-! SUPPORT. Small laws of the configurations that are admitted and of the decoder's tables. -/

namespace Sys2Proof

/-- The parameters of this hardware meet their constraints, whatever the OPEN ones are (spec/00_scope.md R6, R7). -/
theorem Config.chip_admitted : Config.chip.Admitted := by
  simp only [Config.Admitted, Config.chip]
  decide

variable {c : Config}

/-- The four codes are pairwise distinct (spec/00_scope.md R7). -/
theorem Config.Admitted.codes (h : c.Admitted) :
    c.cmdCaset ≠ c.cmdRaset ∧ c.cmdCaset ≠ c.cmdRamwr ∧ c.cmdCaset ≠ c.cmdMadctl ∧ c.cmdRaset ≠ c.cmdRamwr ∧
    c.cmdRaset ≠ c.cmdMadctl ∧ c.cmdRamwr ≠ c.cmdMadctl := by
  have n := h.2.2.1
  simp only [List.nodup_cons, List.mem_cons, List.not_mem_nil, or_false, not_or] at n
  exact ⟨n.1.1, n.1.2.1, n.1.2.2, n.2.1.1, n.2.1.2, n.2.2.1⟩

/-- The three flag bits are bits 7, 6 and 5 in some order (spec/00_scope.md R7). -/
theorem Config.Admitted.bits (h : c.Admitted) :
    (5 ≤ c.bitMirrorX ∧ c.bitMirrorX ≤ 7) ∧ (5 ≤ c.bitMirrorY ∧ c.bitMirrorY ≤ 7) ∧ (5 ≤ c.bitSwap ∧ c.bitSwap ≤ 7) ∧
    c.bitMirrorX ≠ c.bitMirrorY ∧ c.bitMirrorX ≠ c.bitSwap ∧ c.bitMirrorY ≠ c.bitSwap := by
  have n : [c.bitMirrorX, c.bitMirrorY, c.bitSwap].Nodup := h.2.2.2.nodup_iff.2 (by decide)
  have m : ∀ a ∈ [c.bitMirrorX, c.bitMirrorY, c.bitSwap], 5 ≤ a ∧ a ≤ 7 := fun a ha =>
    (by decide : ∀ a ∈ [7, 6, 5], 5 ≤ a ∧ a ≤ 7) a (h.2.2.2.mem_iff.1 ha)
  simp only [List.mem_cons, List.not_mem_nil, or_false, forall_eq_or_imp, forall_eq] at m
  simp only [List.nodup_cons, List.mem_cons, List.not_mem_nil, or_false, not_or] at n
  exact ⟨m.1, m.2.1, m.2.2, n.1.1, n.1.2, n.2.1⟩

@[simp] theorem argCount_cmdMadctl : argCount c c.cmdMadctl = 1 := by simp [argCount]
theorem argCount_cmdCaset (h : c.Admitted) : argCount c c.cmdCaset = 4 := by simp [argCount, h.codes]
theorem argCount_cmdRaset (h : c.Admitted) : argCount c c.cmdRaset = 4 := by simp [argCount, h.codes]
theorem argCount_cmdRamwr (h : c.Admitted) : argCount c c.cmdRamwr = 0 := by
  simp [argCount, h.codes, h.codes.2.1.symm, h.codes.2.2.2.1.symm]

@[simp] theorem decode_nil : decode c [] = .rejected .noCommandByte := rfl
@[simp] theorem decode_caset (p0 p1 p2 p3 : Byte) (rest : List Byte) :
    decode c (c.cmdCaset :: p0 :: p1 :: p2 :: p3 :: rest) = .ok (.caset (halfOfBytes p0 p1) (halfOfBytes p2 p3)) rest := by
  simp [decode, decodeBounds]
theorem decode_raset (h : c.Admitted) (p0 p1 p2 p3 : Byte) (rest : List Byte) :
    decode c (c.cmdRaset :: p0 :: p1 :: p2 :: p3 :: rest) = .ok (.raset (halfOfBytes p0 p1) (halfOfBytes p2 p3)) rest := by
  simp [decode, decodeBounds, h.codes.1.symm]
theorem decode_ramwr (h : c.Admitted) (rest : List Byte) : decode c (c.cmdRamwr :: rest) = .ok .ramwr rest := by
  simp [decode, h.codes.2.1.symm, h.codes.2.2.2.1.symm]
theorem decode_madctl (h : c.Admitted) (a : Byte) (rest : List Byte) :
    decode c (c.cmdMadctl :: a :: rest) = .ok (.madctl a) rest := by
  simp [decode, decodeMadctl, h.codes.2.2.1.symm, h.codes.2.2.2.2.1.symm, h.codes.2.2.2.2.2.symm]
theorem decode_unknown {code : Byte} (h : ¬ recognised c code) (rest : List Byte) :
    decode c (code :: rest) = .ok (.unknown code) rest := by
  unfold recognised at h
  push Not at h
  simp [decode, h]

/-- Everything the decoder can accept, with the bytes it read. -/
theorem decode_cases {bs : List Byte} {i : Instr} {rest : List Byte} (h : decode c bs = .ok i rest) :
    (∃ p0 p1 p2 p3, bs = c.cmdCaset :: p0 :: p1 :: p2 :: p3 :: rest ∧ i = .caset (halfOfBytes p0 p1) (halfOfBytes p2 p3)) ∨
    (∃ p0 p1 p2 p3, bs = c.cmdRaset :: p0 :: p1 :: p2 :: p3 :: rest ∧ i = .raset (halfOfBytes p0 p1) (halfOfBytes p2 p3)) ∨
    (bs = c.cmdRamwr :: rest ∧ i = .ramwr) ∨
    (∃ a, bs = c.cmdMadctl :: a :: rest ∧ i = .madctl a) ∨
    (∃ code, bs = code :: rest ∧ ¬ recognised c code ∧ i = .unknown code) := by
  match bs with
  | [] => simp at h
  | code :: ps =>
    simp only [decode] at h
    split at h
    · next e =>
      match ps, h with
      | p0 :: p1 :: p2 :: p3 :: r, h =>
        simp only [decodeBounds, DecodeResult.ok.injEq] at h
        exact .inl ⟨p0, p1, p2, p3, by rw [e, h.2], h.1.symm⟩
    split at h
    · next e =>
      match ps, h with
      | p0 :: p1 :: p2 :: p3 :: r, h =>
        simp only [decodeBounds, DecodeResult.ok.injEq] at h
        exact .inr (.inl ⟨p0, p1, p2, p3, by rw [e, h.2], h.1.symm⟩)
    split at h
    · next e =>
      simp only [DecodeResult.ok.injEq] at h
      exact .inr (.inr (.inl ⟨by rw [e, h.2], h.1.symm⟩))
    split at h
    · next e =>
      match ps, h with
      | a :: r, h =>
        simp only [decodeMadctl, DecodeResult.ok.injEq] at h
        exact .inr (.inr (.inr (.inl ⟨a, by rw [e, h.2], h.1.symm⟩)))
    · next h1 h2 h3 h4 =>
      simp only [DecodeResult.ok.injEq] at h
      exact .inr (.inr (.inr (.inr ⟨code, by rw [h.2], by unfold recognised; push Not; exact ⟨h1, h2, h3, h4⟩, h.1.symm⟩)))

/-- A code with no parameters is RAMWR's or unknown. -/
theorem argCount_eq_zero {code : Byte} (h : argCount c code = 0) : code = c.cmdRamwr ∨ ¬ recognised c code := by
  by_cases hr : recognised c code
  · rcases hr with rfl | rfl | rfl | rfl
    · simp [argCount] at h
      split at h <;> cases h
    · simp [argCount] at h
      split at h <;> cases h
    · exact .inl rfl
    · simp at h
  · exact .inr hr

/-- Under any configuration, a code with no parameters decodes alone: to RAMWR if it is RAMWR's, otherwise to UNKNOWN. -/
theorem decode_of_argCount_eq_zero {code : Byte} (h : argCount c code = 0) (rest : List Byte) :
    (code = c.cmdRamwr ∧ decode c (code :: rest) = .ok .ramwr rest) ∨
    (¬ recognised c code ∧ decode c (code :: rest) = .ok (.unknown code) rest) := by
  rcases argCount_eq_zero h with rfl | hr
  · unfold argCount at h
    split at h
    · cases h
    split at h
    · cases h
    · next hn =>
      push Not at hn
      exact .inl ⟨rfl, by simp [decode, hn]⟩
  · exact .inr ⟨hr, decode_unknown hr rest⟩

theorem argCount_unknown {code : Byte} (h : ¬ recognised c code) : argCount c code = 0 := by
  unfold recognised at h
  push Not at h
  simp [argCount, h]

theorem argCount_le_four (c : Config) (code : Byte) : argCount c code ≤ 4 := by
  unfold argCount
  split
  · omega
  split <;> omega

end Sys2Proof
end

