-- ==== Sys2Proof/Laws/State.lean ====
section
/-! SUPPORT. One lemma per field and per update of the state, each true by unfolding: what the update does to the field. -/

namespace Sys2Proof.Machine

variable (s : State)

/-! ### setMode -/

@[simp] theorem State.setMode_config (m : Mode) : (s.setMode m).config = s.config := rfl
@[simp] theorem State.setMode_mode (m : Mode) : (s.setMode m).mode = m := rfl
@[simp] theorem State.setMode_selected (m : Mode) : (s.setMode m).selected = s.selected := rfl
@[simp] theorem State.setMode_resetAsserted (m : Mode) : (s.setMode m).resetAsserted = s.resetAsserted := rfl
@[simp] theorem State.setMode_pending (m : Mode) : (s.setMode m).pending = s.pending := rfl
@[simp] theorem State.setMode_ramWriteActive (m : Mode) : (s.setMode m).ramWriteActive = s.ramWriteActive := rfl
@[simp] theorem State.setMode_colStart (m : Mode) : (s.setMode m).colStart = s.colStart := rfl
@[simp] theorem State.setMode_colEnd (m : Mode) : (s.setMode m).colEnd = s.colEnd := rfl
@[simp] theorem State.setMode_rowStart (m : Mode) : (s.setMode m).rowStart = s.rowStart := rfl
@[simp] theorem State.setMode_rowEnd (m : Mode) : (s.setMode m).rowEnd = s.rowEnd := rfl
@[simp] theorem State.setMode_curCol (m : Mode) : (s.setMode m).curCol = s.curCol := rfl
@[simp] theorem State.setMode_curRow (m : Mode) : (s.setMode m).curRow = s.curRow := rfl
@[simp] theorem State.setMode_mirrorX (m : Mode) : (s.setMode m).mirrorX = s.mirrorX := rfl
@[simp] theorem State.setMode_mirrorY (m : Mode) : (s.setMode m).mirrorY = s.mirrorY := rfl
@[simp] theorem State.setMode_swap (m : Mode) : (s.setMode m).swap = s.swap := rfl
@[simp] theorem State.setMode_fault (m : Mode) : (s.setMode m).fault = s.fault := rfl
@[simp] theorem State.setMode_surface (m : Mode) : (s.setMode m).surface = s.surface := rfl
@[simp] theorem State.setMode_outputs (m : Mode) : (s.setMode m).outputs = s.outputs := rfl
@[simp] theorem State.setMode_events (m : Mode) : (s.setMode m).events = s.events := rfl

/-! ### setSelected -/

@[simp] theorem State.setSelected_config (b : Bool) : (s.setSelected b).config = s.config := rfl
@[simp] theorem State.setSelected_mode (b : Bool) : (s.setSelected b).mode = s.mode := rfl
@[simp] theorem State.setSelected_selected (b : Bool) : (s.setSelected b).selected = b := rfl
@[simp] theorem State.setSelected_resetAsserted (b : Bool) : (s.setSelected b).resetAsserted = s.resetAsserted := rfl
@[simp] theorem State.setSelected_pending (b : Bool) : (s.setSelected b).pending = s.pending := rfl
@[simp] theorem State.setSelected_ramWriteActive (b : Bool) : (s.setSelected b).ramWriteActive = s.ramWriteActive := rfl
@[simp] theorem State.setSelected_colStart (b : Bool) : (s.setSelected b).colStart = s.colStart := rfl
@[simp] theorem State.setSelected_colEnd (b : Bool) : (s.setSelected b).colEnd = s.colEnd := rfl
@[simp] theorem State.setSelected_rowStart (b : Bool) : (s.setSelected b).rowStart = s.rowStart := rfl
@[simp] theorem State.setSelected_rowEnd (b : Bool) : (s.setSelected b).rowEnd = s.rowEnd := rfl
@[simp] theorem State.setSelected_curCol (b : Bool) : (s.setSelected b).curCol = s.curCol := rfl
@[simp] theorem State.setSelected_curRow (b : Bool) : (s.setSelected b).curRow = s.curRow := rfl
@[simp] theorem State.setSelected_mirrorX (b : Bool) : (s.setSelected b).mirrorX = s.mirrorX := rfl
@[simp] theorem State.setSelected_mirrorY (b : Bool) : (s.setSelected b).mirrorY = s.mirrorY := rfl
@[simp] theorem State.setSelected_swap (b : Bool) : (s.setSelected b).swap = s.swap := rfl
@[simp] theorem State.setSelected_fault (b : Bool) : (s.setSelected b).fault = s.fault := rfl
@[simp] theorem State.setSelected_surface (b : Bool) : (s.setSelected b).surface = s.surface := rfl
@[simp] theorem State.setSelected_outputs (b : Bool) : (s.setSelected b).outputs = s.outputs := rfl
@[simp] theorem State.setSelected_events (b : Bool) : (s.setSelected b).events = s.events := rfl

/-! ### setResetAsserted -/

@[simp] theorem State.setResetAsserted_config (b : Bool) : (s.setResetAsserted b).config = s.config := rfl
@[simp] theorem State.setResetAsserted_mode (b : Bool) : (s.setResetAsserted b).mode = s.mode := rfl
@[simp] theorem State.setResetAsserted_selected (b : Bool) : (s.setResetAsserted b).selected = s.selected := rfl
@[simp] theorem State.setResetAsserted_resetAsserted (b : Bool) : (s.setResetAsserted b).resetAsserted = b := rfl
@[simp] theorem State.setResetAsserted_pending (b : Bool) : (s.setResetAsserted b).pending = s.pending := rfl
@[simp] theorem State.setResetAsserted_ramWriteActive (b : Bool) : (s.setResetAsserted b).ramWriteActive = s.ramWriteActive := rfl
@[simp] theorem State.setResetAsserted_colStart (b : Bool) : (s.setResetAsserted b).colStart = s.colStart := rfl
@[simp] theorem State.setResetAsserted_colEnd (b : Bool) : (s.setResetAsserted b).colEnd = s.colEnd := rfl
@[simp] theorem State.setResetAsserted_rowStart (b : Bool) : (s.setResetAsserted b).rowStart = s.rowStart := rfl
@[simp] theorem State.setResetAsserted_rowEnd (b : Bool) : (s.setResetAsserted b).rowEnd = s.rowEnd := rfl
@[simp] theorem State.setResetAsserted_curCol (b : Bool) : (s.setResetAsserted b).curCol = s.curCol := rfl
@[simp] theorem State.setResetAsserted_curRow (b : Bool) : (s.setResetAsserted b).curRow = s.curRow := rfl
@[simp] theorem State.setResetAsserted_mirrorX (b : Bool) : (s.setResetAsserted b).mirrorX = s.mirrorX := rfl
@[simp] theorem State.setResetAsserted_mirrorY (b : Bool) : (s.setResetAsserted b).mirrorY = s.mirrorY := rfl
@[simp] theorem State.setResetAsserted_swap (b : Bool) : (s.setResetAsserted b).swap = s.swap := rfl
@[simp] theorem State.setResetAsserted_fault (b : Bool) : (s.setResetAsserted b).fault = s.fault := rfl
@[simp] theorem State.setResetAsserted_surface (b : Bool) : (s.setResetAsserted b).surface = s.surface := rfl
@[simp] theorem State.setResetAsserted_outputs (b : Bool) : (s.setResetAsserted b).outputs = s.outputs := rfl
@[simp] theorem State.setResetAsserted_events (b : Bool) : (s.setResetAsserted b).events = s.events := rfl

/-! ### setPending -/

@[simp] theorem State.setPending_config (p : Option Pending) : (s.setPending p).config = s.config := rfl
@[simp] theorem State.setPending_mode (p : Option Pending) : (s.setPending p).mode = s.mode := rfl
@[simp] theorem State.setPending_selected (p : Option Pending) : (s.setPending p).selected = s.selected := rfl
@[simp] theorem State.setPending_resetAsserted (p : Option Pending) : (s.setPending p).resetAsserted = s.resetAsserted := rfl
@[simp] theorem State.setPending_pending (p : Option Pending) : (s.setPending p).pending = p := rfl
@[simp] theorem State.setPending_ramWriteActive (p : Option Pending) : (s.setPending p).ramWriteActive = s.ramWriteActive := rfl
@[simp] theorem State.setPending_colStart (p : Option Pending) : (s.setPending p).colStart = s.colStart := rfl
@[simp] theorem State.setPending_colEnd (p : Option Pending) : (s.setPending p).colEnd = s.colEnd := rfl
@[simp] theorem State.setPending_rowStart (p : Option Pending) : (s.setPending p).rowStart = s.rowStart := rfl
@[simp] theorem State.setPending_rowEnd (p : Option Pending) : (s.setPending p).rowEnd = s.rowEnd := rfl
@[simp] theorem State.setPending_curCol (p : Option Pending) : (s.setPending p).curCol = s.curCol := rfl
@[simp] theorem State.setPending_curRow (p : Option Pending) : (s.setPending p).curRow = s.curRow := rfl
@[simp] theorem State.setPending_mirrorX (p : Option Pending) : (s.setPending p).mirrorX = s.mirrorX := rfl
@[simp] theorem State.setPending_mirrorY (p : Option Pending) : (s.setPending p).mirrorY = s.mirrorY := rfl
@[simp] theorem State.setPending_swap (p : Option Pending) : (s.setPending p).swap = s.swap := rfl
@[simp] theorem State.setPending_fault (p : Option Pending) : (s.setPending p).fault = s.fault := rfl
@[simp] theorem State.setPending_surface (p : Option Pending) : (s.setPending p).surface = s.surface := rfl
@[simp] theorem State.setPending_outputs (p : Option Pending) : (s.setPending p).outputs = s.outputs := rfl
@[simp] theorem State.setPending_events (p : Option Pending) : (s.setPending p).events = s.events := rfl

/-! ### setRamWriteActive -/

@[simp] theorem State.setRamWriteActive_config (b : Bool) : (s.setRamWriteActive b).config = s.config := rfl
@[simp] theorem State.setRamWriteActive_mode (b : Bool) : (s.setRamWriteActive b).mode = s.mode := rfl
@[simp] theorem State.setRamWriteActive_selected (b : Bool) : (s.setRamWriteActive b).selected = s.selected := rfl
@[simp] theorem State.setRamWriteActive_resetAsserted (b : Bool) : (s.setRamWriteActive b).resetAsserted = s.resetAsserted := rfl
@[simp] theorem State.setRamWriteActive_pending (b : Bool) : (s.setRamWriteActive b).pending = s.pending := rfl
@[simp] theorem State.setRamWriteActive_ramWriteActive (b : Bool) : (s.setRamWriteActive b).ramWriteActive = b := rfl
@[simp] theorem State.setRamWriteActive_colStart (b : Bool) : (s.setRamWriteActive b).colStart = s.colStart := rfl
@[simp] theorem State.setRamWriteActive_colEnd (b : Bool) : (s.setRamWriteActive b).colEnd = s.colEnd := rfl
@[simp] theorem State.setRamWriteActive_rowStart (b : Bool) : (s.setRamWriteActive b).rowStart = s.rowStart := rfl
@[simp] theorem State.setRamWriteActive_rowEnd (b : Bool) : (s.setRamWriteActive b).rowEnd = s.rowEnd := rfl
@[simp] theorem State.setRamWriteActive_curCol (b : Bool) : (s.setRamWriteActive b).curCol = s.curCol := rfl
@[simp] theorem State.setRamWriteActive_curRow (b : Bool) : (s.setRamWriteActive b).curRow = s.curRow := rfl
@[simp] theorem State.setRamWriteActive_mirrorX (b : Bool) : (s.setRamWriteActive b).mirrorX = s.mirrorX := rfl
@[simp] theorem State.setRamWriteActive_mirrorY (b : Bool) : (s.setRamWriteActive b).mirrorY = s.mirrorY := rfl
@[simp] theorem State.setRamWriteActive_swap (b : Bool) : (s.setRamWriteActive b).swap = s.swap := rfl
@[simp] theorem State.setRamWriteActive_fault (b : Bool) : (s.setRamWriteActive b).fault = s.fault := rfl
@[simp] theorem State.setRamWriteActive_surface (b : Bool) : (s.setRamWriteActive b).surface = s.surface := rfl
@[simp] theorem State.setRamWriteActive_outputs (b : Bool) : (s.setRamWriteActive b).outputs = s.outputs := rfl
@[simp] theorem State.setRamWriteActive_events (b : Bool) : (s.setRamWriteActive b).events = s.events := rfl

/-! ### setColWindow -/

@[simp] theorem State.setColWindow_config (a b : Half) : (s.setColWindow a b).config = s.config := rfl
@[simp] theorem State.setColWindow_mode (a b : Half) : (s.setColWindow a b).mode = s.mode := rfl
@[simp] theorem State.setColWindow_selected (a b : Half) : (s.setColWindow a b).selected = s.selected := rfl
@[simp] theorem State.setColWindow_resetAsserted (a b : Half) : (s.setColWindow a b).resetAsserted = s.resetAsserted := rfl
@[simp] theorem State.setColWindow_pending (a b : Half) : (s.setColWindow a b).pending = s.pending := rfl
@[simp] theorem State.setColWindow_ramWriteActive (a b : Half) : (s.setColWindow a b).ramWriteActive = s.ramWriteActive := rfl
@[simp] theorem State.setColWindow_colStart (a b : Half) : (s.setColWindow a b).colStart = a := rfl
@[simp] theorem State.setColWindow_colEnd (a b : Half) : (s.setColWindow a b).colEnd = b := rfl
@[simp] theorem State.setColWindow_rowStart (a b : Half) : (s.setColWindow a b).rowStart = s.rowStart := rfl
@[simp] theorem State.setColWindow_rowEnd (a b : Half) : (s.setColWindow a b).rowEnd = s.rowEnd := rfl
@[simp] theorem State.setColWindow_curCol (a b : Half) : (s.setColWindow a b).curCol = a := rfl
@[simp] theorem State.setColWindow_curRow (a b : Half) : (s.setColWindow a b).curRow = s.curRow := rfl
@[simp] theorem State.setColWindow_mirrorX (a b : Half) : (s.setColWindow a b).mirrorX = s.mirrorX := rfl
@[simp] theorem State.setColWindow_mirrorY (a b : Half) : (s.setColWindow a b).mirrorY = s.mirrorY := rfl
@[simp] theorem State.setColWindow_swap (a b : Half) : (s.setColWindow a b).swap = s.swap := rfl
@[simp] theorem State.setColWindow_fault (a b : Half) : (s.setColWindow a b).fault = s.fault := rfl
@[simp] theorem State.setColWindow_surface (a b : Half) : (s.setColWindow a b).surface = s.surface := rfl
@[simp] theorem State.setColWindow_outputs (a b : Half) : (s.setColWindow a b).outputs = s.outputs := rfl
@[simp] theorem State.setColWindow_events (a b : Half) : (s.setColWindow a b).events = s.events := rfl

/-! ### setRowWindow -/

@[simp] theorem State.setRowWindow_config (a b : Half) : (s.setRowWindow a b).config = s.config := rfl
@[simp] theorem State.setRowWindow_mode (a b : Half) : (s.setRowWindow a b).mode = s.mode := rfl
@[simp] theorem State.setRowWindow_selected (a b : Half) : (s.setRowWindow a b).selected = s.selected := rfl
@[simp] theorem State.setRowWindow_resetAsserted (a b : Half) : (s.setRowWindow a b).resetAsserted = s.resetAsserted := rfl
@[simp] theorem State.setRowWindow_pending (a b : Half) : (s.setRowWindow a b).pending = s.pending := rfl
@[simp] theorem State.setRowWindow_ramWriteActive (a b : Half) : (s.setRowWindow a b).ramWriteActive = s.ramWriteActive := rfl
@[simp] theorem State.setRowWindow_colStart (a b : Half) : (s.setRowWindow a b).colStart = s.colStart := rfl
@[simp] theorem State.setRowWindow_colEnd (a b : Half) : (s.setRowWindow a b).colEnd = s.colEnd := rfl
@[simp] theorem State.setRowWindow_rowStart (a b : Half) : (s.setRowWindow a b).rowStart = a := rfl
@[simp] theorem State.setRowWindow_rowEnd (a b : Half) : (s.setRowWindow a b).rowEnd = b := rfl
@[simp] theorem State.setRowWindow_curCol (a b : Half) : (s.setRowWindow a b).curCol = s.curCol := rfl
@[simp] theorem State.setRowWindow_curRow (a b : Half) : (s.setRowWindow a b).curRow = a := rfl
@[simp] theorem State.setRowWindow_mirrorX (a b : Half) : (s.setRowWindow a b).mirrorX = s.mirrorX := rfl
@[simp] theorem State.setRowWindow_mirrorY (a b : Half) : (s.setRowWindow a b).mirrorY = s.mirrorY := rfl
@[simp] theorem State.setRowWindow_swap (a b : Half) : (s.setRowWindow a b).swap = s.swap := rfl
@[simp] theorem State.setRowWindow_fault (a b : Half) : (s.setRowWindow a b).fault = s.fault := rfl
@[simp] theorem State.setRowWindow_surface (a b : Half) : (s.setRowWindow a b).surface = s.surface := rfl
@[simp] theorem State.setRowWindow_outputs (a b : Half) : (s.setRowWindow a b).outputs = s.outputs := rfl
@[simp] theorem State.setRowWindow_events (a b : Half) : (s.setRowWindow a b).events = s.events := rfl

/-! ### setCursor -/

@[simp] theorem State.setCursor_config (c r : Half) : (s.setCursor c r).config = s.config := rfl
@[simp] theorem State.setCursor_mode (c r : Half) : (s.setCursor c r).mode = s.mode := rfl
@[simp] theorem State.setCursor_selected (c r : Half) : (s.setCursor c r).selected = s.selected := rfl
@[simp] theorem State.setCursor_resetAsserted (c r : Half) : (s.setCursor c r).resetAsserted = s.resetAsserted := rfl
@[simp] theorem State.setCursor_pending (c r : Half) : (s.setCursor c r).pending = s.pending := rfl
@[simp] theorem State.setCursor_ramWriteActive (c r : Half) : (s.setCursor c r).ramWriteActive = s.ramWriteActive := rfl
@[simp] theorem State.setCursor_colStart (c r : Half) : (s.setCursor c r).colStart = s.colStart := rfl
@[simp] theorem State.setCursor_colEnd (c r : Half) : (s.setCursor c r).colEnd = s.colEnd := rfl
@[simp] theorem State.setCursor_rowStart (c r : Half) : (s.setCursor c r).rowStart = s.rowStart := rfl
@[simp] theorem State.setCursor_rowEnd (c r : Half) : (s.setCursor c r).rowEnd = s.rowEnd := rfl
@[simp] theorem State.setCursor_curCol (c r : Half) : (s.setCursor c r).curCol = c := rfl
@[simp] theorem State.setCursor_curRow (c r : Half) : (s.setCursor c r).curRow = r := rfl
@[simp] theorem State.setCursor_mirrorX (c r : Half) : (s.setCursor c r).mirrorX = s.mirrorX := rfl
@[simp] theorem State.setCursor_mirrorY (c r : Half) : (s.setCursor c r).mirrorY = s.mirrorY := rfl
@[simp] theorem State.setCursor_swap (c r : Half) : (s.setCursor c r).swap = s.swap := rfl
@[simp] theorem State.setCursor_fault (c r : Half) : (s.setCursor c r).fault = s.fault := rfl
@[simp] theorem State.setCursor_surface (c r : Half) : (s.setCursor c r).surface = s.surface := rfl
@[simp] theorem State.setCursor_outputs (c r : Half) : (s.setCursor c r).outputs = s.outputs := rfl
@[simp] theorem State.setCursor_events (c r : Half) : (s.setCursor c r).events = s.events := rfl

/-! ### setOrientation -/

@[simp] theorem State.setOrientation_config (x y w : Bool) : (s.setOrientation x y w).config = s.config := rfl
@[simp] theorem State.setOrientation_mode (x y w : Bool) : (s.setOrientation x y w).mode = s.mode := rfl
@[simp] theorem State.setOrientation_selected (x y w : Bool) : (s.setOrientation x y w).selected = s.selected := rfl
@[simp] theorem State.setOrientation_resetAsserted (x y w : Bool) : (s.setOrientation x y w).resetAsserted = s.resetAsserted := rfl
@[simp] theorem State.setOrientation_pending (x y w : Bool) : (s.setOrientation x y w).pending = s.pending := rfl
@[simp] theorem State.setOrientation_ramWriteActive (x y w : Bool) : (s.setOrientation x y w).ramWriteActive = s.ramWriteActive := rfl
@[simp] theorem State.setOrientation_colStart (x y w : Bool) : (s.setOrientation x y w).colStart = s.colStart := rfl
@[simp] theorem State.setOrientation_colEnd (x y w : Bool) : (s.setOrientation x y w).colEnd = s.colEnd := rfl
@[simp] theorem State.setOrientation_rowStart (x y w : Bool) : (s.setOrientation x y w).rowStart = s.rowStart := rfl
@[simp] theorem State.setOrientation_rowEnd (x y w : Bool) : (s.setOrientation x y w).rowEnd = s.rowEnd := rfl
@[simp] theorem State.setOrientation_curCol (x y w : Bool) : (s.setOrientation x y w).curCol = s.curCol := rfl
@[simp] theorem State.setOrientation_curRow (x y w : Bool) : (s.setOrientation x y w).curRow = s.curRow := rfl
@[simp] theorem State.setOrientation_mirrorX (x y w : Bool) : (s.setOrientation x y w).mirrorX = x := rfl
@[simp] theorem State.setOrientation_mirrorY (x y w : Bool) : (s.setOrientation x y w).mirrorY = y := rfl
@[simp] theorem State.setOrientation_swap (x y w : Bool) : (s.setOrientation x y w).swap = w := rfl
@[simp] theorem State.setOrientation_fault (x y w : Bool) : (s.setOrientation x y w).fault = s.fault := rfl
@[simp] theorem State.setOrientation_surface (x y w : Bool) : (s.setOrientation x y w).surface = s.surface := rfl
@[simp] theorem State.setOrientation_outputs (x y w : Bool) : (s.setOrientation x y w).outputs = s.outputs := rfl
@[simp] theorem State.setOrientation_events (x y w : Bool) : (s.setOrientation x y w).events = s.events := rfl

/-! ### markFault -/

@[simp] theorem State.markFault_config (r : FaultMark) : (s.markFault r).config = s.config := rfl
@[simp] theorem State.markFault_mode (r : FaultMark) : (s.markFault r).mode = s.mode := rfl
@[simp] theorem State.markFault_selected (r : FaultMark) : (s.markFault r).selected = s.selected := rfl
@[simp] theorem State.markFault_resetAsserted (r : FaultMark) : (s.markFault r).resetAsserted = s.resetAsserted := rfl
@[simp] theorem State.markFault_pending (r : FaultMark) : (s.markFault r).pending = s.pending := rfl
@[simp] theorem State.markFault_ramWriteActive (r : FaultMark) : (s.markFault r).ramWriteActive = s.ramWriteActive := rfl
@[simp] theorem State.markFault_colStart (r : FaultMark) : (s.markFault r).colStart = s.colStart := rfl
@[simp] theorem State.markFault_colEnd (r : FaultMark) : (s.markFault r).colEnd = s.colEnd := rfl
@[simp] theorem State.markFault_rowStart (r : FaultMark) : (s.markFault r).rowStart = s.rowStart := rfl
@[simp] theorem State.markFault_rowEnd (r : FaultMark) : (s.markFault r).rowEnd = s.rowEnd := rfl
@[simp] theorem State.markFault_curCol (r : FaultMark) : (s.markFault r).curCol = s.curCol := rfl
@[simp] theorem State.markFault_curRow (r : FaultMark) : (s.markFault r).curRow = s.curRow := rfl
@[simp] theorem State.markFault_mirrorX (r : FaultMark) : (s.markFault r).mirrorX = s.mirrorX := rfl
@[simp] theorem State.markFault_mirrorY (r : FaultMark) : (s.markFault r).mirrorY = s.mirrorY := rfl
@[simp] theorem State.markFault_swap (r : FaultMark) : (s.markFault r).swap = s.swap := rfl
@[simp] theorem State.markFault_fault (r : FaultMark) : (s.markFault r).fault = s.fault.or (some r) := rfl
@[simp] theorem State.markFault_surface (r : FaultMark) : (s.markFault r).surface = s.surface := rfl
@[simp] theorem State.markFault_outputs (r : FaultMark) : (s.markFault r).outputs = s.outputs := rfl
@[simp] theorem State.markFault_events (r : FaultMark) : (s.markFault r).events = s.events := rfl

/-! ### setEvents -/

@[simp] theorem State.setEvents_config (es : List Event) : (s.setEvents es).config = s.config := rfl
@[simp] theorem State.setEvents_mode (es : List Event) : (s.setEvents es).mode = s.mode := rfl
@[simp] theorem State.setEvents_selected (es : List Event) : (s.setEvents es).selected = s.selected := rfl
@[simp] theorem State.setEvents_resetAsserted (es : List Event) : (s.setEvents es).resetAsserted = s.resetAsserted := rfl
@[simp] theorem State.setEvents_pending (es : List Event) : (s.setEvents es).pending = s.pending := rfl
@[simp] theorem State.setEvents_ramWriteActive (es : List Event) : (s.setEvents es).ramWriteActive = s.ramWriteActive := rfl
@[simp] theorem State.setEvents_colStart (es : List Event) : (s.setEvents es).colStart = s.colStart := rfl
@[simp] theorem State.setEvents_colEnd (es : List Event) : (s.setEvents es).colEnd = s.colEnd := rfl
@[simp] theorem State.setEvents_rowStart (es : List Event) : (s.setEvents es).rowStart = s.rowStart := rfl
@[simp] theorem State.setEvents_rowEnd (es : List Event) : (s.setEvents es).rowEnd = s.rowEnd := rfl
@[simp] theorem State.setEvents_curCol (es : List Event) : (s.setEvents es).curCol = s.curCol := rfl
@[simp] theorem State.setEvents_curRow (es : List Event) : (s.setEvents es).curRow = s.curRow := rfl
@[simp] theorem State.setEvents_mirrorX (es : List Event) : (s.setEvents es).mirrorX = s.mirrorX := rfl
@[simp] theorem State.setEvents_mirrorY (es : List Event) : (s.setEvents es).mirrorY = s.mirrorY := rfl
@[simp] theorem State.setEvents_swap (es : List Event) : (s.setEvents es).swap = s.swap := rfl
@[simp] theorem State.setEvents_fault (es : List Event) : (s.setEvents es).fault = s.fault := rfl
@[simp] theorem State.setEvents_surface (es : List Event) : (s.setEvents es).surface = s.surface := rfl
@[simp] theorem State.setEvents_outputs (es : List Event) : (s.setEvents es).outputs = s.outputs := rfl
@[simp] theorem State.setEvents_events (es : List Event) : (s.setEvents es).events = es := rfl

/-! ### emit -/

@[simp] theorem State.emit_config (o : Output) : (s.emit o).config = s.config := rfl
@[simp] theorem State.emit_mode (o : Output) : (s.emit o).mode = s.mode := rfl
@[simp] theorem State.emit_selected (o : Output) : (s.emit o).selected = s.selected := rfl
@[simp] theorem State.emit_resetAsserted (o : Output) : (s.emit o).resetAsserted = s.resetAsserted := rfl
@[simp] theorem State.emit_pending (o : Output) : (s.emit o).pending = s.pending := rfl
@[simp] theorem State.emit_ramWriteActive (o : Output) : (s.emit o).ramWriteActive = s.ramWriteActive := rfl
@[simp] theorem State.emit_colStart (o : Output) : (s.emit o).colStart = s.colStart := rfl
@[simp] theorem State.emit_colEnd (o : Output) : (s.emit o).colEnd = s.colEnd := rfl
@[simp] theorem State.emit_rowStart (o : Output) : (s.emit o).rowStart = s.rowStart := rfl
@[simp] theorem State.emit_rowEnd (o : Output) : (s.emit o).rowEnd = s.rowEnd := rfl
@[simp] theorem State.emit_curCol (o : Output) : (s.emit o).curCol = s.curCol := rfl
@[simp] theorem State.emit_curRow (o : Output) : (s.emit o).curRow = s.curRow := rfl
@[simp] theorem State.emit_mirrorX (o : Output) : (s.emit o).mirrorX = s.mirrorX := rfl
@[simp] theorem State.emit_mirrorY (o : Output) : (s.emit o).mirrorY = s.mirrorY := rfl
@[simp] theorem State.emit_swap (o : Output) : (s.emit o).swap = s.swap := rfl
@[simp] theorem State.emit_fault (o : Output) : (s.emit o).fault = s.fault := rfl
@[simp] theorem State.emit_surface (o : Output) : (s.emit o).surface = s.surface := rfl
@[simp] theorem State.emit_outputs (o : Output) : (s.emit o).outputs = s.outputs ++ [o] := rfl
@[simp] theorem State.emit_events (o : Output) : (s.emit o).events = s.events := rfl

/-! ### writePixel -/

@[simp] theorem State.writePixel_config (k : Nat) (v : Word) : (s.writePixel k v).config = s.config := rfl
@[simp] theorem State.writePixel_mode (k : Nat) (v : Word) : (s.writePixel k v).mode = s.mode := rfl
@[simp] theorem State.writePixel_selected (k : Nat) (v : Word) : (s.writePixel k v).selected = s.selected := rfl
@[simp] theorem State.writePixel_resetAsserted (k : Nat) (v : Word) : (s.writePixel k v).resetAsserted = s.resetAsserted := rfl
@[simp] theorem State.writePixel_pending (k : Nat) (v : Word) : (s.writePixel k v).pending = s.pending := rfl
@[simp] theorem State.writePixel_ramWriteActive (k : Nat) (v : Word) : (s.writePixel k v).ramWriteActive = s.ramWriteActive := rfl
@[simp] theorem State.writePixel_colStart (k : Nat) (v : Word) : (s.writePixel k v).colStart = s.colStart := rfl
@[simp] theorem State.writePixel_colEnd (k : Nat) (v : Word) : (s.writePixel k v).colEnd = s.colEnd := rfl
@[simp] theorem State.writePixel_rowStart (k : Nat) (v : Word) : (s.writePixel k v).rowStart = s.rowStart := rfl
@[simp] theorem State.writePixel_rowEnd (k : Nat) (v : Word) : (s.writePixel k v).rowEnd = s.rowEnd := rfl
@[simp] theorem State.writePixel_curCol (k : Nat) (v : Word) : (s.writePixel k v).curCol = s.curCol := rfl
@[simp] theorem State.writePixel_curRow (k : Nat) (v : Word) : (s.writePixel k v).curRow = s.curRow := rfl
@[simp] theorem State.writePixel_mirrorX (k : Nat) (v : Word) : (s.writePixel k v).mirrorX = s.mirrorX := rfl
@[simp] theorem State.writePixel_mirrorY (k : Nat) (v : Word) : (s.writePixel k v).mirrorY = s.mirrorY := rfl
@[simp] theorem State.writePixel_swap (k : Nat) (v : Word) : (s.writePixel k v).swap = s.swap := rfl
@[simp] theorem State.writePixel_fault (k : Nat) (v : Word) : (s.writePixel k v).fault = s.fault := rfl
@[simp] theorem State.writePixel_surface (k : Nat) (v : Word) : (s.writePixel k v).surface = s.surface.writeWord s.config.surfaceByteOrder k v := rfl
@[simp] theorem State.writePixel_outputs (k : Nat) (v : Word) : (s.writePixel k v).outputs = s.outputs ++ [.writePixel k v] := rfl
@[simp] theorem State.writePixel_events (k : Nat) (v : Word) : (s.writePixel k v).events = s.events := rfl

/-! ### resetRegisters -/

@[simp] theorem State.resetRegisters_config : s.resetRegisters.config = s.config := rfl
@[simp] theorem State.resetRegisters_mode : s.resetRegisters.mode = s.mode := rfl
@[simp] theorem State.resetRegisters_selected : s.resetRegisters.selected = s.selected := rfl
@[simp] theorem State.resetRegisters_resetAsserted : s.resetRegisters.resetAsserted = s.resetAsserted := rfl
@[simp] theorem State.resetRegisters_pending : s.resetRegisters.pending = none := rfl
@[simp] theorem State.resetRegisters_ramWriteActive : s.resetRegisters.ramWriteActive = false := rfl
@[simp] theorem State.resetRegisters_colStart : s.resetRegisters.colStart = 0 := rfl
@[simp] theorem State.resetRegisters_colEnd : s.resetRegisters.colEnd = BitVec.ofNat 16 (s.config.width - 1) := rfl
@[simp] theorem State.resetRegisters_rowStart : s.resetRegisters.rowStart = s.config.resetRowStart := rfl
@[simp] theorem State.resetRegisters_rowEnd : s.resetRegisters.rowEnd = s.config.resetRowEnd := rfl
@[simp] theorem State.resetRegisters_curCol : s.resetRegisters.curCol = 0 := rfl
@[simp] theorem State.resetRegisters_curRow : s.resetRegisters.curRow = s.config.resetRowStart := rfl
@[simp] theorem State.resetRegisters_mirrorX : s.resetRegisters.mirrorX = false := rfl
@[simp] theorem State.resetRegisters_mirrorY : s.resetRegisters.mirrorY = false := rfl
@[simp] theorem State.resetRegisters_swap : s.resetRegisters.swap = false := rfl
@[simp] theorem State.resetRegisters_fault : s.resetRegisters.fault = s.fault := rfl
@[simp] theorem State.resetRegisters_surface : s.resetRegisters.surface = s.surface := rfl
@[simp] theorem State.resetRegisters_outputs : s.resetRegisters.outputs = s.outputs := rfl
@[simp] theorem State.resetRegisters_events : s.resetRegisters.events = s.events := rfl

end Sys2Proof.Machine
end

