-- ==== Sys2Proof/Laws/Exec.lean ====
section
/-! SUPPORT. The laws of `andThen`, of `addressSet` and of the commands' meanings. -/

namespace Sys2Proof.Machine

@[simp] theorem andThen_next (s : State) (f : State → Result) : andThen (.next s) f = f s := rfl
@[simp] theorem andThen_fault (r : Fault) (f : State → Result) : andThen (.fault r) f = .fault r := rfl
@[simp] theorem andThen_refused (r : Refusal) (f : State → Result) : andThen (.refused r) f = .refused r := rfl

theorem andThen_eq_next {o : Result} {f : State → Result} {t : State} :
    andThen o f = .next t ↔ ∃ s, o = .next s ∧ f s = .next t := by
  cases o <;> simp [andThen]

theorem andThen_eq_fault {o : Result} {f : State → Result} {r : Fault} :
    andThen o f = .fault r ↔ o = .fault r ∨ ∃ s, o = .next s ∧ f s = .fault r := by
  cases o <;> simp [andThen]

theorem andThen_eq_refused {o : Result} {f : State → Result} {r : Refusal} :
    andThen o f = .refused r ↔ o = .refused r ∨ ∃ s, o = .next s ∧ f s = .refused r := by
  cases o <;> simp [andThen]

theorem andThen_assoc (o : Result) (f g : State → Result) :
    andThen (andThen o f) g = andThen o (fun s => andThen (f s) g) := by
  cases o <;> rfl

/-- The axis that swap chooses is set, and nothing else (spec/41_commands.md R66). -/
theorem addressSet_cases (nominal : Axis) (start stop : Half) (s : State) :
    addressSet nominal start stop s = s.setColWindow start stop ∨ addressSet nominal start stop s = s.setRowWindow start stop := by
  unfold addressSet
  split
  · exact .inl rfl
  · exact .inr rfl

@[simp] theorem exec_caset (start stop : Half) (s : State) : exec (.caset start stop) s = .next (addressSet .column start stop s) := rfl
@[simp] theorem exec_raset (start stop : Half) (s : State) : exec (.raset start stop) s = .next (addressSet .row start stop s) := rfl
@[simp] theorem exec_ramwr (s : State) : exec .ramwr s = .next (s.setRamWriteActive true) := rfl
@[simp] theorem exec_madctl (a : Byte) (s : State) :
    exec (.madctl a) s = .next (s.setOrientation (mirrorXOf s.config a) (mirrorYOf s.config a) (swapOf s.config a)) := rfl
@[simp] theorem exec_unknown (code : Byte) (s : State) : exec (.unknown code) s = .next (s.emit (.diagUnknownCommand code)) := rfl

/-- Everything a command can do to the state. -/
theorem exec_cases {i : Instr} {s t : State} (h : exec i s = .next t) :
    (∃ a b, t = s.setColWindow a b) ∨ (∃ a b, t = s.setRowWindow a b) ∨ t = s.setRamWriteActive true ∨
    (∃ x y w, t = s.setOrientation x y w) ∨ (∃ code, i = .unknown code ∧ t = s.emit (.diagUnknownCommand code)) := by
  cases i with
  | caset a b =>
    obtain rfl : addressSet .column a b s = t := by simpa using h
    rcases addressSet_cases .column a b s with e | e
    · exact .inl ⟨a, b, e⟩
    · exact .inr (.inl ⟨a, b, e⟩)
  | raset a b =>
    obtain rfl : addressSet .row a b s = t := by simpa using h
    rcases addressSet_cases .row a b s with e | e
    · exact .inl ⟨a, b, e⟩
    · exact .inr (.inl ⟨a, b, e⟩)
  | ramwr => exact .inr (.inr (.inl (by simpa using h.symm)))
  | madctl a => exact .inr (.inr (.inr (.inl ⟨_, _, _, by simpa using h.symm⟩)))
  | unknown code => exact .inr (.inr (.inr (.inr ⟨code, rfl, by simpa using h.symm⟩)))

/-- No command's meaning stops. -/
theorem exec_ne_fault (i : Instr) (s : State) (r : Fault) : exec i s ≠ .fault r := by
  cases i <;> simp

theorem exec_ne_refused (i : Instr) (s : State) (r : Refusal) : exec i s ≠ .refused r := by
  cases i <;> simp

end Sys2Proof.Machine
end

