-- ==== Sys2Proof/Laws/Memory.lean ====
section
/-! SUPPORT. The laws of the surface's bytes: reading after writing, and the canonical form. -/

namespace Sys2Proof.Machine

@[simp] theorem Memory.read_nil (a : Nat) : Memory.read [] a = none := rfl

@[simp] theorem Memory.wf_nil : Memory.wf [] := List.Pairwise.nil

@[simp] theorem Memory.read_write_same (m : Memory) (a : Nat) (v : Byte) : (m.write a v).read a = some v := by
  induction m with
  | nil => simp [Memory.write, Memory.read]
  | cons c m ih =>
    simp only [Memory.write]
    split
    · simp [Memory.read]
    · split
      · simp [Memory.read]
      · next h => simp [Memory.read, h, ih]

theorem Memory.read_write_other (m : Memory) {a b : Nat} (v : Byte) (h : b ≠ a) : (m.write a v).read b = m.read b := by
  induction m with
  | nil => simp [Memory.write, Memory.read, h]
  | cons c m ih =>
    simp only [Memory.write]
    split
    · simp [Memory.read, h]
    · split
      · next e => simp [Memory.read, h, ← e]
      · simp only [Memory.read, ih]

/-- An entry after a write is the written one or was there before. -/
theorem Memory.mem_write {m : Memory} {a : Nat} {v : Byte} {c : Host.Cell} (h : c ∈ m.write a v) : c = (a, v) ∨ c ∈ m := by
  induction m with
  | nil => simpa [Memory.write] using h
  | cons d m ih =>
    simp only [Memory.write] at h
    split at h
    · simpa using h
    · split at h
      · rcases List.mem_cons.1 h with h | h
        · exact .inl h
        · exact .inr (List.mem_cons_of_mem _ h)
      · rcases List.mem_cons.1 h with h | h
        · exact .inr (h ▸ List.mem_cons_self)
        · exact (ih h).imp_right (List.mem_cons_of_mem _)

theorem Memory.wf_write {m : Memory} (a : Nat) (v : Byte) (h : m.wf) : (m.write a v).wf := by
  induction m with
  | nil => simp [Memory.write, Memory.wf]
  | cons d m ih =>
    obtain ⟨hd, hm⟩ := List.pairwise_cons.1 h
    simp only [Memory.write]
    split
    · next lt =>
      refine List.pairwise_cons.2 ⟨fun c hc => ?_, h⟩
      rcases List.mem_cons.1 hc with rfl | hc
      · exact lt
      · exact lt.trans (hd c hc)
    · split
      · next _ e => exact List.pairwise_cons.2 ⟨fun c hc => by simpa [e] using hd c hc, hm⟩
      · next nlt ne =>
        refine List.pairwise_cons.2 ⟨fun c hc => ?_, ih hm⟩
        rcases Memory.mem_write hc with rfl | hc
        · simp only; omega
        · exact hd c hc

theorem Memory.wf_writeWord {m : Memory} (o : ByteOrder) (k : Nat) (v : Word) (h : m.wf) : (m.writeWord o k v).wf :=
  wf_write _ _ (wf_write _ _ (wf_write _ _ (wf_write _ _ h)))

/-- An entry after a word's write is one of its four bytes or was there before. -/
theorem Memory.mem_writeWord {m : Memory} {o : ByteOrder} {k : Nat} {v : Word} {c : Host.Cell} (h : c ∈ m.writeWord o k v) :
    (k ≤ c.1 ∧ c.1 < k + 4) ∨ c ∈ m := by
  rcases mem_write h with rfl | h
  · exact .inl ⟨by simp, by simp⟩
  rcases mem_write h with rfl | h
  · exact .inl ⟨by simp, by simp⟩
  rcases mem_write h with rfl | h
  · exact .inl ⟨by simp, by simp⟩
  rcases mem_write h with rfl | h
  · exact .inl ⟨by simp, by simp⟩
  exact .inr h

/-- Reading a byte of the word written. -/
theorem Memory.read_writeWord_inside (m : Memory) (o : ByteOrder) (k : Nat) (v : Word) (j : Nat) (h : j < 4) :
    (m.writeWord o k v).read (k + j) = some (surfaceByte o v j) := by
  unfold Memory.writeWord
  obtain rfl | rfl | rfl | rfl : j = 0 ∨ j = 1 ∨ j = 2 ∨ j = 3 := by omega
  · rw [read_write_other _ _ (by omega), read_write_other _ _ (by omega), read_write_other _ _ (by omega)]
    exact read_write_same ..
  · rw [read_write_other _ _ (by omega), read_write_other _ _ (by omega), read_write_same]
  · rw [read_write_other _ _ (by omega), read_write_same]
  · rw [read_write_same]

/-- Reading outside the word written. -/
theorem Memory.read_writeWord_outside (m : Memory) (o : ByteOrder) (k : Nat) (v : Word) (a : Nat) (h : a < k ∨ k + 4 ≤ a) :
    (m.writeWord o k v).read a = m.read a := by
  unfold Memory.writeWord
  rw [read_write_other _ _ (by omega), read_write_other _ _ (by omega), read_write_other _ _ (by omega),
    read_write_other _ _ (by omega)]

/-- Memories in the canonical form that read alike are equal. -/
theorem Memory.ext_of_read {m n : Memory} (hm : m.wf) (hn : n.wf) (h : ∀ a, m.read a = n.read a) : m = n := by
  have below : ∀ (m : Memory) (a : Nat), (∀ c ∈ m, a < c.1) → m.read a = none := by
    intro m a h
    induction m with
    | nil => rfl
    | cons c m ih =>
      have hc := h c List.mem_cons_self
      simp only [Memory.read]
      rw [if_neg (by omega)]
      exact ih fun d hd => h d (List.mem_cons_of_mem _ hd)
  induction m generalizing n with
  | nil =>
    cases n with
    | nil => rfl
    | cons d n => simpa [Memory.read] using h d.1
  | cons c m ih =>
    obtain ⟨hc, hm'⟩ := List.pairwise_cons.1 hm
    cases n with
    | nil => simpa [Memory.read] using h c.1
    | cons d n =>
      obtain ⟨hd, hn'⟩ := List.pairwise_cons.1 hn
      have key : c.1 = d.1 := by
        rcases lt_trichotomy c.1 d.1 with lt | e | gt
        · have := h c.1
          rw [below (d :: n) c.1 (fun x hx => by
            rcases List.mem_cons.1 hx with rfl | hx
            · exact lt
            · exact lt.trans (hd x hx))] at this
          simp [Memory.read] at this
        · exact e
        · have := h d.1
          rw [below (c :: m) d.1 (fun x hx => by
            rcases List.mem_cons.1 hx with rfl | hx
            · exact gt
            · exact gt.trans (hc x hx))] at this
          simp [Memory.read] at this
      have val : c.2 = d.2 := by
        have := h c.1
        simpa [Memory.read, key] using this
      have e : c = d := Prod.ext key val
      subst e
      refine congrArg (c :: ·) (ih hm' hn' fun a => ?_)
      have := h a
      simp only [Memory.read] at this
      by_cases ha : a = c.1
      · rw [ha, below m c.1 hc, below n c.1 hd]
      · simpa [ha] using this

end Sys2Proof.Machine
end

