-- ==== Sys2Proof/Laws/PixelWriter.lean ====
section
/-! SUPPORT. The laws of the pixel writer: the advance sets the cursor only, and the write is one of two. -/

namespace Sys2Proof.Machine

/-- The advance sets the cursor and nothing else (spec/42_pixel_writer.md R79). -/
theorem advance_eq_setCursor (s : State) : advance s = s.setCursor (advance s).curCol (advance s).curRow := by
  unfold advance
  split <;> rfl

/-- A sample is written at its offset, or marks the fault (R77, R78). -/
theorem writeSample_cases (smp : Half) (s : State) :
    (∃ k, sinkOffset s = some k ∧ writeSample smp s = s.writePixel k (rgba32OfRgb565 smp)) ∨
    (sinkOffset s = none ∧ writeSample smp s = s.markFault (.outOfSurface (sinkX s) (sinkY s))) := by
  unfold writeSample
  split
  · next k h => exact .inl ⟨k, h, rfl⟩
  · next h => exact .inr ⟨h, rfl⟩

/-- The advance reads the window, the cursor and swap only: a write before it does not change where the cursor goes. -/
theorem advance_writeSample (smp : Half) (s : State) :
    advance (writeSample smp s) = (writeSample smp s).setCursor (advance s).curCol (advance s).curRow := by
  rcases writeSample_cases smp s with ⟨k, -, e⟩ | ⟨-, e⟩ <;> rw [e] <;> unfold advance <;> cases h : s.swap <;> simp [h] <;> rfl

/-- Everything one sample can do (R74). -/
theorem pixelWrite_cases (smp : Half) (s : State) :
    (∃ k, sinkOffset s = some k ∧ pixelWrite smp s =
      (s.writePixel k (rgba32OfRgb565 smp)).setCursor (advance s).curCol (advance s).curRow) ∨
    (sinkOffset s = none ∧ pixelWrite smp s =
      (s.markFault (.outOfSurface (sinkX s) (sinkY s))).setCursor (advance s).curCol (advance s).curRow) := by
  unfold pixelWrite
  rw [advance_writeSample]
  rcases writeSample_cases smp s with ⟨k, h, e⟩ | ⟨h, e⟩
  · exact .inl ⟨k, h, by rw [e]⟩
  · exact .inr ⟨h, by rw [e]⟩

/-- An offset inside the surface (R77). -/
theorem surfaceOffset_eq_some {c : Config} {x y : Int} {k : Nat} (h : surfaceOffset c x y = some k) :
    0 ≤ x ∧ x < c.width ∧ 0 ≤ y ∧ y < c.height ∧ (k : Int) = (y * c.width + x) * 4 := by
  unfold surfaceOffset at h
  split at h
  · next hc =>
    obtain ⟨hx, hx', hy, hy'⟩ := hc
    refine ⟨hx, hx', hy, hy', ?_⟩
    obtain rfl := Option.some.inj h
    push_cast
    rw [Int.toNat_of_nonneg hx, Int.toNat_of_nonneg hy]
  · cases h

theorem surfaceOffset_eq_none {c : Config} {x y : Int} :
    surfaceOffset c x y = none ↔ x < 0 ∨ (c.width : Int) ≤ x ∨ y < 0 ∨ (c.height : Int) ≤ y := by
  unfold surfaceOffset
  split <;> simp <;> omega

theorem surfaceOffset_aligned {c : Config} {x y : Int} {k : Nat} (h : surfaceOffset c x y = some k) :
    k % 4 = 0 ∧ k + 4 ≤ c.surfaceBytes := by
  obtain ⟨hx, hx', hy, hy', e⟩ := surfaceOffset_eq_some h
  have hr : (y + 1) * c.width ≤ c.height * c.width := mul_le_mul_of_nonneg_right (by omega) (by omega)
  have hs : (c.surfaceBytes : Int) = c.height * c.width * 4 := by unfold Config.surfaceBytes; push_cast; ring
  generalize c.surfaceBytes = n at hs ⊢
  constructor <;> [omega; nlinarith]

@[simp] theorem pixelWrites_nil (s : State) : pixelWrites [] s = s := rfl
@[simp] theorem pixelWrites_cons (v : Half) (vs : List Half) (s : State) :
    pixelWrites (v :: vs) s = pixelWrites vs (pixelWrite v s) := rfl

theorem pixelWrites_append (vs ws : List Half) (s : State) :
    pixelWrites (vs ++ ws) s = pixelWrites ws (pixelWrites vs s) := by
  induction vs generalizing s with
  | nil => rfl
  | cons v vs ih => exact ih _

/-- What two states that differ by samples written keep: everything but the cursor, the mark, the surface and the outputs. -/
theorem pixelWrite_keeps (v : Half) (s : State) :
    (pixelWrite v s).config = s.config ∧ (pixelWrite v s).mode = s.mode ∧ (pixelWrite v s).selected = s.selected ∧
    (pixelWrite v s).resetAsserted = s.resetAsserted ∧ (pixelWrite v s).pending = s.pending ∧
    (pixelWrite v s).ramWriteActive = s.ramWriteActive ∧ (pixelWrite v s).colStart = s.colStart ∧
    (pixelWrite v s).colEnd = s.colEnd ∧ (pixelWrite v s).rowStart = s.rowStart ∧ (pixelWrite v s).rowEnd = s.rowEnd ∧
    (pixelWrite v s).mirrorX = s.mirrorX ∧ (pixelWrite v s).mirrorY = s.mirrorY ∧ (pixelWrite v s).swap = s.swap ∧
    (pixelWrite v s).events = s.events := by
  unfold pixelWrite
  rw [advance_eq_setCursor]
  rcases writeSample_cases v s with ⟨k, -, e⟩ | ⟨-, e⟩ <;> simp [e]

end Sys2Proof.Machine
end

