-- ==== Sys2Proof/Laws/Moves.lean ====
section
/-! SUPPORT. What a step can do, said once: a step that answers a next state is a chain of moves, each one update of the state. An invariant is
shown by showing that every move keeps it. -/

namespace Sys2Proof.Machine

/-- One update made while a chunk is processed (spec/40_protocol.md). -/
inductive ChunkMove : State → State → Prop where
  | clearRam (s : State) : ChunkMove s (s.setRamWriteActive false)
  | dropPending (s : State) : ChunkMove s (s.setPending none)
  | startCommand (s : State) (b : Byte) (h : argCount s.config b ≠ 0) :
      ChunkMove s (s.setPending (some { code := b, expected := argCount s.config b, args := [] }))
  | parameter (s : State) (p : Pending) (b : Byte) (hp : s.pending = some p) (h : (p.args ++ [b]).length ≠ p.expected) :
      ChunkMove s (s.setPending (some { p with args := p.args ++ [b] }))
  | command (i : Instr) (s t : State) (hw : WellFormed s.config i = true) (h : exec i s = .next t) : ChunkMove s t
  | sample (v : Half) (s : State) : ChunkMove s (pixelWrite v s)

/-- One update made by an event. -/
inductive EventMove : State → State → Prop where
  | chunk {s t : State} (h : ChunkMove s t) : EventMove s t
  | request (s : State) : EventMove s (s.emit .requestChunk)
  | stop (s : State) : EventMove s (s.emit .stopTransfer)
  | mode (s : State) (m : Mode) : EventMove s (s.setMode m)
  | selected (s : State) (b : Bool) : EventMove s (s.setSelected b)
  | resetAsserted (s : State) (b : Bool) : EventMove s (s.setResetAsserted b)
  | reset (s : State) : EventMove s s.resetRegisters
  | events (s : State) (es : List Event) : EventMove s (s.setEvents es)

abbrev ChunkMoves := Relation.ReflTransGen ChunkMove
abbrev EventMoves := Relation.ReflTransGen EventMove

/-- A command that is decoded is well formed. -/
theorem wellFormed_of_decode {c : Config} {bs : List Byte} {i : Instr} {rest : List Byte} (h : decode c bs = .ok i rest) :
    WellFormed c i = true := by
  rcases decode_cases h with ⟨_, _, _, _, -, rfl⟩ | ⟨_, _, _, _, -, rfl⟩ | ⟨-, rfl⟩ | ⟨_, -, rfl⟩ | ⟨_, -, hc, rfl⟩
  · rfl
  · rfl
  · rfl
  · rfl
  · exact decide_eq_true hc

theorem execute_moves {code : Byte} {args : List Byte} {s t : State} (h : execute code args s = .next t) : ChunkMoves s t := by
  unfold execute at h
  split at h
  · next i rest hd => exact .single (.command i s t (wellFormed_of_decode hd) h)
  · cases h

theorem commandByte_moves {b : Byte} {s t : State} (h : commandByte b s = .next t) : ChunkMoves s t := by
  unfold commandByte at h
  split at h
  · exact .trans (.single (.dropPending s)) (execute_moves h)
  · next hb =>
    obtain rfl : _ = t := by simpa using h
    exact .single (.startCommand s b hb)

theorem commandBytes_moves {bs : List Byte} {s t : State} (h : commandBytes bs s = .next t) : ChunkMoves s t := by
  induction bs generalizing s with
  | nil =>
    obtain rfl : s = t := by simpa [commandBytes] using h
    exact .refl
  | cons b bs ih =>
    obtain ⟨u, hu, ht⟩ := andThen_eq_next.1 h
    exact .trans (commandByte_moves hu) (ih ht)

theorem paramByte_moves {b : Byte} {s t : State} (h : paramByte b s = .next t) : ChunkMoves s t := by
  unfold paramByte at h
  split at h
  · obtain rfl : s = t := by simpa using h
    exact .refl
  · next p hp =>
    split at h
    · exact .trans (.single (.dropPending s)) (execute_moves h)
    · next hl =>
      obtain rfl : _ = t := by simpa using h
      exact .single (.parameter s p b hp hl)

theorem paramBytes_moves {bs : List Byte} {s t : State} (h : paramBytes bs s = .next t) : ChunkMoves s t := by
  induction bs generalizing s with
  | nil =>
    obtain rfl : s = t := by simpa [paramBytes] using h
    exact .refl
  | cons b bs ih =>
    obtain ⟨u, hu, ht⟩ := andThen_eq_next.1 h
    exact .trans (paramByte_moves hu) (ih ht)

theorem pixelWrites_moves (vs : List Half) (s : State) : ChunkMoves s (pixelWrites vs s) := by
  induction vs generalizing s with
  | nil => exact .refl
  | cons v vs ih => exact .trans (.single (.sample v s)) (ih _)

theorem processChunk_moves {bs : List Byte} {s t : State} (h : processChunk bs s = .next t) : ChunkMoves s t := by
  unfold processChunk at h
  split at h
  · exact .trans (.single (.clearRam s)) (commandBytes_moves h)
  · unfold dataChunk at h
    split at h
    · obtain rfl : _ = t := by simpa using h
      exact pixelWrites_moves _ _
    · exact paramBytes_moves h

theorem ChunkMoves.toEventMoves {s t : State} (h : ChunkMoves s t) : EventMoves s t := by
  induction h with
  | refl => exact .refl
  | tail _ m ih => exact .tail ih (.chunk m)

theorem flush_moves {bs : List Byte} {s t : State} (h : flush bs s = .next t) : ChunkMoves s t := by
  unfold flush at h
  split at h
  · obtain rfl : s = t := by simpa using h
    exact .refl
  · exact processChunk_moves h

theorem requestIfSelected_moves (s : State) : EventMoves s (requestIfSelected s) := by
  unfold requestIfSelected
  split
  · exact .single (.request s)
  · exact .refl

theorem runEvent_moves {e : Event} {s t : State} (h : runEvent e s = .next t) : EventMoves s t := by
  cases e with
  | chunk bs =>
    obtain ⟨u, hu, ht⟩ := andThen_eq_next.1 h
    obtain rfl : _ = t := by simpa using ht
    exact .trans (processChunk_moves hu).toEventMoves (requestIfSelected_moves u)
  | modeLine level inflight =>
    simp only [runEvent, modeLineEvent] at h
    split at h
    · split at h
      · obtain rfl : s = t := by simpa using h
        exact .refl
      · cases h
    · split at h
      · obtain ⟨u, hu, ht⟩ := andThen_eq_next.1 h
        obtain rfl : _ = t := by simpa using ht
        exact .trans (.single (.stop s)) (.trans (flush_moves hu).toEventMoves
          (.trans (.single (.mode u _)) (requestIfSelected_moves _)))
      · split at h
        · obtain rfl : _ = t := by simpa using h
          exact .single (.mode s _)
        · cases h
  | selectLine level inflight =>
    simp only [runEvent, selectLineEvent] at h
    split at h
    · split at h
      · obtain rfl : s = t := by simpa using h
        exact .refl
      · cases h
    · split at h
      · split at h
        · obtain rfl : _ = t := by simpa using h
          exact .trans (.single (.selected s true)) (.single (.request _))
        · cases h
      · obtain ⟨u, hu, ht⟩ := andThen_eq_next.1 h
        obtain rfl : _ = t := by simpa using ht
        exact .trans (.single (.stop s)) (.trans (flush_moves hu).toEventMoves (.single (.selected u false)))
  | resetLine level =>
    simp only [runEvent, resetLineEvent] at h
    split at h
    · split at h
      · obtain rfl : s = t := by simpa using h
        exact .refl
      · obtain rfl : _ = t := by simpa using h
        exact .trans (.single (.resetAsserted s true)) (.single (.reset _))
    · obtain rfl : _ = t := by simpa using h
      exact .single (.resetAsserted s false)
  | endOfTransfer =>
    obtain rfl : s = t := by simpa [runEvent, endOfTransferEvent] using h
    exact .refl

/-- A step that answers a next state is a chain of moves. -/
theorem step_moves {s t : State} (h : step s = .next t) : EventMoves s t := by
  unfold step runNextEvent at h
  split at h
  · obtain rfl : s = t := by simpa using h
    exact .refl
  · next e es _ => exact .trans (.single (.events s es)) (runEvent_moves h)

/-- A property that every move keeps is kept by every step: package of the induction. -/
theorem step_keeps {P : State → Prop} (hP : ∀ {s t}, EventMove s t → P s → P t) {s t : State} (h : step s = .next t)
    (hs : P s) : P t := by
  have m := step_moves h
  clear h
  induction m with
  | refl => exact hs
  | tail _ m ih => exact hP m ih

/-- A property that every chunk move keeps is kept by processing a chunk. -/
theorem processChunk_keeps {P : State → Prop} (hP : ∀ {s t}, ChunkMove s t → P s → P t) {bs : List Byte} {s t : State}
    (h : processChunk bs s = .next t) (hs : P s) : P t := by
  have m := processChunk_moves h
  clear h
  induction m with
  | refl => exact hs
  | tail _ m ih => exact hP m ih

end Sys2Proof.Machine
end

