-- ==== Sys2Proof/Laws/Events.lean ====
section
/-! SUPPORT. The inversion of one event, with its guards (spec/43_lines_and_transport.md), what a chunk never touches, and how parameter bytes and
samples compose. -/

namespace Sys2Proof.Machine

/-- Every command answers a next state. -/
theorem exec_next (i : Instr) (s : State) : ∃ t, exec i s = .next t := by
  cases i <;> simp

/-- No command touches the configuration, the accumulator, the lines or the events. -/
theorem exec_keeps {i : Instr} {s t : State} (h : exec i s = .next t) :
    t.config = s.config ∧ t.pending = s.pending ∧ t.mode = s.mode ∧ t.selected = s.selected ∧ t.resetAsserted = s.resetAsserted ∧
    t.events = s.events ∧ t.fault = s.fault ∧ t.surface = s.surface := by
  rcases exec_cases h with ⟨a, b, rfl⟩ | ⟨a, b, rfl⟩ | rfl | ⟨x, y, w, rfl⟩ | ⟨c, -, rfl⟩ <;> simp

theorem paramBytes_append (as bs : List Byte) (s : State) :
    paramBytes (as ++ bs) s = andThen (paramBytes as s) (paramBytes bs) := by
  induction as generalizing s with
  | nil => rfl
  | cons x as ih =>
    simp only [List.cons_append, paramBytes, andThen_assoc]
    congr 1
    funext u
    exact ih u

theorem samplesOf_append : ∀ as bs : List Byte, as.length % 2 = 0 → samplesOf (as ++ bs) = samplesOf as ++ samplesOf bs
  | [], _, _ => rfl
  | [_], _, h => by simp at h
  | a :: b :: as, bs, h => by
    simp only [List.cons_append, samplesOf]
    rw [samplesOf_append as bs (by simp at h; omega)]

/-- Processing a chunk never touches the configuration, the lines or the events. -/
theorem processChunk_lines {bs : List Byte} {s t : State} (h : processChunk bs s = .next t) :
    t.config = s.config ∧ t.mode = s.mode ∧ t.selected = s.selected ∧ t.resetAsserted = s.resetAsserted ∧
    t.events = s.events := by
  refine processChunk_keeps (P := fun u => u.config = s.config ∧ u.mode = s.mode ∧ u.selected = s.selected ∧
    u.resetAsserted = s.resetAsserted ∧ u.events = s.events) (fun {a b} m ha => ?_) h ⟨rfl, rfl, rfl, rfl, rfl⟩
  cases m with
  | clearRam => exact ha
  | dropPending => exact ha
  | startCommand => exact ha
  | parameter => exact ha
  | command i _ _ hw h => have k := exec_keeps h; simp [k, ha]
  | sample v => have k := pixelWrite_keeps v a; simp [k, ha]

theorem flush_lines {bs : List Byte} {s t : State} (h : flush bs s = .next t) :
    t.config = s.config ∧ t.mode = s.mode ∧ t.selected = s.selected ∧ t.resetAsserted = s.resetAsserted ∧
    t.events = s.events := by
  unfold flush at h
  split at h
  · obtain rfl : s = t := by simpa using h
    exact ⟨rfl, rfl, rfl, rfl, rfl⟩
  · exact processChunk_lines h

/-- The request is an appended effect, and only while selected. -/
theorem requestIfSelected_cases (s : State) :
    (s.selected = true ∧ requestIfSelected s = s.emit .requestChunk) ∨ (s.selected = false ∧ requestIfSelected s = s) := by
  unfold requestIfSelected
  cases h : s.selected <;> simp

/-- Everything an event does when it answers a next state, with the guard it does it under. -/
inductive EventCase (s : State) (e : Event) (t : State) : Prop where
  | chunk (bs : List Byte) (u : State) (he : e = .chunk bs) (h : processChunk bs s = .next u) (ht : t = requestIfSelected u)
  | modeSame (l : Level) (he : e = .modeLine l []) (hl : modeOfLevel s.config l = s.mode) (ht : t = s)
  | modeFlush (l : Level) (bs : List Byte) (u : State) (he : e = .modeLine l bs) (hl : modeOfLevel s.config l ≠ s.mode)
      (hs : s.selected = true) (h : flush bs (s.emit .stopTransfer) = .next u)
      (ht : t = (u.setMode (modeOfLevel s.config l)).emit .requestChunk)
  | modeIdle (l : Level) (he : e = .modeLine l []) (hl : modeOfLevel s.config l ≠ s.mode) (hs : s.selected = false)
      (ht : t = s.setMode (modeOfLevel s.config l))
  | selectSame (l : Level) (he : e = .selectLine l []) (hl : selectActive s.config l = s.selected) (ht : t = s)
  | selectOn (l : Level) (he : e = .selectLine l []) (hl : selectActive s.config l = true) (hs : s.selected = false)
      (ht : t = (s.setSelected true).emit .requestChunk)
  | selectOff (l : Level) (bs : List Byte) (u : State) (he : e = .selectLine l bs) (hl : selectActive s.config l = false)
      (hs : s.selected = true) (h : flush bs (s.emit .stopTransfer) = .next u) (ht : t = u.setSelected false)
  | resetOn (l : Level) (he : e = .resetLine l) (hl : l = s.config.resetActiveLevel) (hs : s.resetAsserted = false)
      (ht : t = (s.setResetAsserted true).resetRegisters)
  | resetHeld (l : Level) (he : e = .resetLine l) (hl : l = s.config.resetActiveLevel) (hs : s.resetAsserted = true) (ht : t = s)
  | resetOff (l : Level) (he : e = .resetLine l) (hl : l ≠ s.config.resetActiveLevel) (ht : t = s.setResetAsserted false)
  | endOfTransfer (he : e = .endOfTransfer) (ht : t = s)

theorem runEvent_cases {e : Event} {s t : State} (h : runEvent e s = .next t) : EventCase s e t := by
  cases e with
  | chunk bs =>
    obtain ⟨u, hu, ht⟩ := andThen_eq_next.1 h
    exact .chunk bs u rfl hu (by simpa using ht.symm)
  | modeLine l bs =>
    simp only [runEvent, modeLineEvent] at h
    split at h
    · next hl =>
      split at h
      · next hb => subst hb; exact .modeSame l rfl hl (by simpa using h.symm)
      · cases h
    · next hl =>
      split at h
      · next hs =>
        obtain ⟨u, hu, ht⟩ := andThen_eq_next.1 h
        refine .modeFlush l bs u rfl hl hs hu ?_
        have e1 : (u.setMode (modeOfLevel s.config l)).selected = true := by simpa [hs] using (flush_lines hu).2.2.1
        rw [requestIfSelected, e1] at ht
        simpa using ht.symm
      · next hs =>
        split at h
        · next hb => subst hb; exact .modeIdle l rfl hl (by simpa using hs) (by simpa using h.symm)
        · cases h
  | selectLine l bs =>
    simp only [runEvent, selectLineEvent] at h
    split at h
    · next hl =>
      split at h
      · next hb => subst hb; exact .selectSame l rfl hl (by simpa using h.symm)
      · cases h
    · next hl =>
      split at h
      · next hs =>
        split at h
        · next hb => subst hb; exact .selectOn l rfl hs (by rw [hs] at hl; simpa using Ne.symm hl) (by simpa using h.symm)
        · cases h
      · next hs =>
        obtain ⟨u, hu, ht⟩ := andThen_eq_next.1 h
        have hs' : selectActive s.config l = false := by simpa using hs
        exact .selectOff l bs u rfl hs' (by rw [hs'] at hl; simpa using Ne.symm hl) hu (by simpa using ht.symm)
  | resetLine l =>
    simp only [runEvent, resetLineEvent] at h
    split at h
    · next ha =>
      have ha' : l = s.config.resetActiveLevel := by simpa [resetActive] using ha
      split at h
      · next hr => exact .resetHeld l rfl ha' hr (by simpa using h.symm)
      · next hr => exact .resetOn l rfl ha' (by simpa using hr) (by simpa using h.symm)
    · next ha =>
      have ha' : l ≠ s.config.resetActiveLevel := by simpa [resetActive] using ha
      exact .resetOff l rfl ha' (by simpa using h.symm)
  | endOfTransfer => exact .endOfTransfer rfl (by simpa [runEvent, endOfTransferEvent] using h.symm)

/-- A step that takes an event is one case of `EventCase`, at the state with the event taken. -/
theorem step_cases {s t : State} {e : Event} {es : List Event} (he : s.events = e :: es) (h : step s = .next t) :
    EventCase (s.setEvents es) e t := by
  simp only [step, runNextEvent, he] at h
  exact runEvent_cases h

/-- One more step of the host's run, over this machine's own types. -/
theorem core_run_succ (k : Nat) (s : State) :
    (core.run (k + 1) s : Result) = andThen (step s) (fun t => (core.run k t : Result)) := by
  have run_gen : ∀ (M : Host.Core) (s : M.State), (∀ t, M.step s = .next t → M.run (k + 1) s = M.run k t) ∧
      (∀ r, M.step s = .fault r → M.run (k + 1) s = .fault r) ∧
      (∀ r, M.step s = .refused r → M.run (k + 1) s = .refused r) := by
    intro M s
    refine ⟨?_, ?_, ?_⟩ <;> intro t h <;> simp [Host.Core.run, h]
  cases h : step s with
  | next t => exact (run_gen core s).1 t h
  | fault r => exact (run_gen core s).2.1 r h
  | refused r => exact (run_gen core s).2.2 r h

end Sys2Proof.Machine
end

