-- ==== Sys2Proof/Laws/PerInstr.lean ====
section
/-! SUPPORT. Statements about every command as syntax, one lemma per constructor. -/

namespace Sys2Proof.Laws

/-- Under every admitted configuration, a well-formed command's bytes are its code and exactly as many parameters as the code's count
(spec/30_encoding.md R44, R49). -/
def EncodeLength.Statement (i : Instr) : Prop :=
  ∀ c : Config, c.Admitted → WellFormed c i = true → ∃ code ps, encode c i = code :: ps ∧ ps.length = argCount c code

theorem EncodeLength.caset (start stop : Half) : EncodeLength.Statement (.caset start stop) :=
  fun _ h _ => ⟨_, _, rfl, (argCount_cmdCaset h).symm⟩

theorem EncodeLength.raset (start stop : Half) : EncodeLength.Statement (.raset start stop) :=
  fun _ h _ => ⟨_, _, rfl, (argCount_cmdRaset h).symm⟩

theorem EncodeLength.ramwr : EncodeLength.Statement .ramwr :=
  fun _ h _ => ⟨_, _, rfl, (argCount_cmdRamwr h).symm⟩

theorem EncodeLength.madctl (arg : Byte) : EncodeLength.Statement (.madctl arg) :=
  fun _ _ _ => ⟨_, _, rfl, argCount_cmdMadctl.symm⟩

theorem EncodeLength.unknown (code : Byte) : EncodeLength.Statement (.unknown code) :=
  fun _ _ h => ⟨code, [], rfl, (argCount_unknown (of_decide_eq_true h)).symm⟩

end Sys2Proof.Laws
end

