-- ==== Sys2Proof/Tests/Slice0.lean ====
section
/-! SUPPORT. The model's own tests, from the vectors of spec/95_test_vectors.md (section named at each), and one witness for every statement with
hypotheses. -/

open Sys2Proof Sys2Proof.Machine Sys2Proof.Claims

namespace Sys2Proof.Tests

/-- This hardware's parameters with a value for each OPEN one, so that a state has no free value. -/
def testConfig : Config :=
  { Config.chip with
    resetRowStart := 0
    resetRowEnd := 159
    modeAtPowerOn := false
    selectedAtPowerOn := false
    surfaceByteOrder := .big }

/-- Other parameters that 00_scope.md R7 admits: a 4x2 surface, other codes, the flag bits and the levels exchanged. -/
def otherConfig : Config where
  width := 4
  height := 2
  cmdCaset := 0x10
  cmdRaset := 0x11
  cmdRamwr := 0x2A
  cmdMadctl := 0x00
  bitMirrorX := 5
  bitMirrorY := 7
  bitSwap := 6
  modeDataLevel := false
  selectActiveLevel := true
  resetActiveLevel := true
  resetRowStart := 1
  resetRowEnd := 0
  modeAtPowerOn := true
  selectedAtPowerOn := true
  surfaceByteOrder := .little

/-- A small state with no free value: command mode, not selected, the whole surface as window, cursor at its start. -/
def base : State where
  config := testConfig
  mode := .command
  selected := false
  resetAsserted := false
  pending := none
  ramWriteActive := false
  colStart := 0
  colEnd := 127
  rowStart := 0
  rowEnd := 159
  curCol := 0
  curRow := 0
  mirrorX := false
  mirrorY := false
  swap := false
  fault := none
  surface := []
  outputs := []
  events := []

/-- `base` in data mode. -/
def dataBase : State := { base with mode := .data }
/-- `base` while pixels flow. -/
def pixelBase : State := { dataBase with ramWriteActive := true }
/-- `dataBase` with a CASET of which the parameters given have arrived. -/
def casetPending (args : List Byte) : State := { dataBase with pending := some ⟨0x2A, 4, args⟩ }
/-- `base`, selected. -/
def selBase : State := { base with selected := true }
/-- The state with the cursor at a place. -/
def at' (col row : Half) (s : State) : State := { s with curCol := col, curRow := row }
/-- The state with the events given to deliver. -/
def due (es : List Event) (s : State) : State := { s with events := es }
/-- The state with flags `mirrorX mirrorY swap`. -/
def flags (x y w : Bool) (s : State) : State := { s with mirrorX := x, mirrorY := y, swap := w }

/-- What a field of the next state holds; none after a fault or a refusal. -/
def after {α : Type} (o : Result) (f : State → α) : Option α :=
  match o with
  | .next s => some (f s)
  | .fault _ => none
  | .refused _ => none

/-- The refusal answered, if one is. -/
def refusal (o : Result) : Option Refusal :=
  match o with
  | .next _ => none
  | .fault _ => none
  | .refused r => some r

/-! ### Well-formedness and decoding (section 2.1) -/

theorem test_wellFormed_refuses_recognised_codes :
    WellFormed testConfig (.unknown 0x2A) = false ∧ WellFormed testConfig (.unknown 0x2B) = false ∧
    WellFormed testConfig (.unknown 0x2C) = false ∧ WellFormed testConfig (.unknown 0x36) = false := by decide

theorem test_wellFormed_accepts_commands :
    WellFormed testConfig (.caset 65535 0) = true ∧ WellFormed testConfig (.raset 258 5) = true ∧ WellFormed testConfig .ramwr = true ∧
    WellFormed testConfig (.madctl 0x1F) = true ∧ WellFormed testConfig (.unknown 0x01) = true := by decide

/-- `2A 01 02 00 05`: start 258, end 5. -/
theorem test_decode_caset_word : decode testConfig [0b00101010, 0b00000001, 0b00000010, 0, 0b00000101] = .ok (.caset 258 5) [] := by decide
/-- `2B FF FF 00 00`: start 65535, end 0. -/
theorem test_decode_raset_word : decode testConfig [0b00101011, 0xFF, 0xFF, 0, 0] = .ok (.raset 65535 0) [] := by decide
theorem test_decode_ramwr_word : decode testConfig [0b00101100, 0x2B] = .ok .ramwr [0x2B] := by decide
theorem test_decode_madctl_word : decode testConfig [0b00110110, 0b10100000] = .ok (.madctl 0xA0) [] := by decide
theorem test_decode_unknown_words :
    decode testConfig [0b00000000] = .ok (.unknown 0) [] ∧ decode testConfig [0b00010001] = .ok (.unknown 0x11) [] ∧
    decode testConfig [0b00101001] = .ok (.unknown 0x29) [] := by decide
theorem test_decode_rejects_by_name :
    decode testConfig [] = .rejected .noCommandByte ∧ decode testConfig [0x2A, 0, 1, 0] = .rejected (.missingParameters 0x2A) ∧
    decode testConfig [0x36] = .rejected (.missingParameters 0x36) := by decide
/-- The encoder writes the bytes of section 3, P1 and P2. -/
theorem test_encode_words :
    encode testConfig (.caset 0 127) = [0x2A, 0x00, 0x00, 0x00, 0x7F] ∧ encode testConfig (.raset 0 159) = [0x2B, 0x00, 0x00, 0x00, 0x9F] ∧
    encode testConfig (.madctl 0xA0) = [0x36, 0xA0] ∧ encode testConfig .ramwr = [0x2C] := by decide

/-- The table's bits: the command byte is bits 7 to 0, the first parameter bits 15 to 8. -/
theorem test_table_words :
    decodeTableWord 40 0x050002012A = some (.caset 258 5) ∧ decodeTableWord 8 0x2A = some (.caset 0 0) ∧
    decodeTableWord 8 0x2B = some (.raset 0 0) ∧ decodeTableWord 8 0x2C = some .ramwr ∧
    decodeTableWord 16 0xA036 = some (.madctl 0xA0) ∧ decodeTableWord 8 0x36 = some (.madctl 0) ∧
    decodeTableWord 8 0x00 = some (.unknown 0) := by decide

theorem test_placed_commands_run_after_reset :
    (after (step (State.reset.withFetchWord 8 0x2A)) (fun _ => true)) = some true ∧
    (after (step (State.reset.withFetchWord 8 0x2B)) (fun _ => true)) = some true ∧
    (after (step (State.reset.withFetchWord 8 0x2C)) (fun _ => true)) = some true ∧
    (after (step (State.reset.withFetchWord 8 0x36)) (fun _ => true)) = some true ∧
    (after (step (State.reset.withFetchWord 8 0x00)) (fun _ => true)) = some true := by decide

/-! ### Commands (section 2.3) -/

/-- `CASET [00 10 00 20]`, flags 001: the rows are set. -/
theorem test_caset_under_swap :
    after (execute 0x2A [0x00, 0x10, 0x00, 0x20] (flags false false true base))
      (fun t => (t.colStart, t.colEnd, t.rowStart, t.rowEnd, t.curCol, t.curRow)) = some (0, 127, 16, 32, 0, 16) := by decide
/-- `CASET [FF FF 00 00]`, flags 000: stored unchecked. -/
theorem test_caset_stores_unchecked :
    after (exec (.caset 65535 0) base) (fun t => (t.colStart, t.colEnd, t.curCol)) = some (65535, 0, 65535) := by decide
/-- `RASET [01 02 00 05]`, flags 000. -/
theorem test_raset_sets_rows :
    after (execute 0x2B [0x01, 0x02, 0x00, 0x05] base) (fun t => (t.rowStart, t.rowEnd, t.curCol, t.curRow)) =
      some (258, 5, 0, 258) := by decide
/-- `RASET [00 00 00 7F]`, flags 001: the columns are set. -/
theorem test_raset_under_swap :
    after (exec (.raset 0 127) (at' 5 7 (flags false false true base)))
      (fun t => (t.colStart, t.colEnd, t.rowStart, t.rowEnd, t.curCol, t.curRow)) = some (0, 127, 0, 159, 0, 7) := by decide
/-- `MADCTL [A0]`: flags 101, window and cursor unchanged. -/
theorem test_madctl_a0 :
    after (exec (.madctl 0xA0) (at' 5 7 base)) (fun t => (t.mirrorX, t.mirrorY, t.swap, t.curCol, t.curRow)) =
      some (true, false, true, 5, 7) := by decide
/-- `MADCTL [1F]`: bits 4 to 0 have no effect. -/
theorem test_madctl_1f : after (exec (.madctl 0x1F) base) id = some base := by decide
/-- RAMWR does not move the cursor. -/
theorem test_ramwr_keeps_cursor :
    after (exec .ramwr (at' 5 7 base)) (fun t => (t.ramWriteActive, t.curCol, t.curRow)) = some (true, 5, 7) := by decide
theorem test_unknown_reports : after (exec (.unknown 0x11) base) (·.outputs) = some [.diagUnknownCommand 0x11] := by decide

/-! ### Parser and events (sections 1, 2.2 and 2.5), one step each -/

/-- W5: `CHUNK 2A 00 00 00 7F` in mode C is five commands. -/
theorem test_five_bytes_are_five_commands :
    after (step (due [.chunk [0x2A, 0x00, 0x00, 0x00, 0x7F]] base)) (fun t => (t.pending, t.outputs)) =
      some (none, [.diagUnknownCommand 0, .diagUnknownCommand 0, .diagUnknownCommand 0, .diagUnknownCommand 0x7F]) := by decide
theorem test_ramwr_in_chunk_survives :
    after (step (due [.chunk [0x2C, 0x00]] base)) (fun t => (t.ramWriteActive, t.outputs)) =
      some (true, [.diagUnknownCommand 0]) := by decide
theorem test_empty_command_chunk :
    after (step (due [.chunk []] { selBase with ramWriteActive := true })) (fun t => (t.ramWriteActive, t.outputs)) =
      some (false, [.requestChunk]) := by decide
theorem test_surplus_parameters :
    after (step (due [.chunk [0, 1, 0, 2, 0, 3, 0, 4]] (casetPending []))) (fun t => (t.colStart, t.colEnd, t.curCol, t.pending)) =
      some (1, 2, 1, none) := by decide
theorem test_mode_line_flush :
    after (step (due [.modeLine true [0x2A]] selBase)) (fun t => (t.mode, t.pending, t.outputs)) =
      some (.data, some ⟨0x2A, 4, []⟩, [.stopTransfer, .requestChunk]) := by decide
theorem test_deselect_flush :
    after (step (due [.selectLine true [0, 0, 0, 0x7F]] { casetPending [] with selected := true }))
      (fun t => (t.colStart, t.colEnd, t.curCol, t.selected, t.outputs)) = some (0, 127, 0, false, [.stopTransfer]) := by decide
theorem test_reset_discards :
    after (step (due [.resetLine false] { casetPending [0, 5] with fault := some (.outOfSurface 128 0), colStart := 9 }))
      (fun t => (t.pending, t.colStart, t.colEnd, t.resetAsserted, t.fault)) =
      some (none, 0, 127, true, some (.outOfSurface 128 0)) := by decide
theorem test_end_of_transfer :
    after (step (due [.endOfTransfer] { selBase with ramWriteActive := true })) (fun t => (t.ramWriteActive, t.outputs)) =
      some (true, []) := by decide

/-! ### Pixel writer (section 2.4) -/

theorem test_colours :
    rgba32OfRgb565 0x0000 = 0xFF000000 ∧ rgba32OfRgb565 0x1234 = 0xFF1044A0 ∧ rgba32OfRgb565 0x8410 = 0xFF808080 ∧
    rgba32OfRgb565 0x0821 = 0xFF080408 ∧ rgba32OfRgb565 0x7BEF = 0xFF787C78 := by decide
theorem test_transform_offsets :
    sinkOffset (flags false false true (at' 5 7 base)) = some 3604 ∧ sinkOffset (flags false true false (at' 5 7 base)) = some 4072 ∧
    sinkOffset (flags false true true (at' 5 7 base)) = some 77844 ∧ sinkOffset (flags true false true (at' 5 7 base)) = some 4072 ∧
    sinkOffset (flags true true false (at' 5 7 base)) = some 78312 := by decide
/-- The first row of P6's fault and the row (0, 160) with flags 100. -/
theorem test_out_of_surface :
    (pixelWrite 0xFFFF { at' 128 0 base with colEnd := 65535 }).fault = some (.outOfSurface 128 0) ∧
    (pixelWrite 0xFFFF { at' 128 0 base with colEnd := 65535 }).curCol = 129 ∧
    (pixelWrite 0xFFFF (flags true false false { at' 0 160 base with rowEnd := 65535 })).fault = some (.outOfSurface 0 (-1)) := by
  decide
theorem test_advance_column_rows :
    ((advance (at' 127 7 base)).curCol, (advance (at' 127 7 base)).curRow) = (0, 8) ∧
    ((advance (at' 127 159 base)).curCol, (advance (at' 127 159 base)).curRow) = (0, 0) ∧
    (advance { at' 65535 0 base with colEnd := 65535 }).curRow = 1 ∧
    ((advance { at' 10 7 base with colStart := 10, colEnd := 5 }).curCol,
      (advance { at' 10 7 base with colStart := 10, colEnd := 5 }).curRow) = (10, 8) := by decide
theorem test_advance_row_rows :
    ((advance (flags false false true (at' 5 159 base))).curCol, (advance (flags false false true (at' 5 159 base))).curRow) = (6, 0) ∧
    (advance (flags false false true (at' 5 7 base))).curRow = 8 := by decide
/-- Section 2.2: `CHUNK F8 00 07`, the odd byte dropped. -/
theorem test_pixel_chunk :
    after (step (due [.chunk [0xF8, 0x00, 0x07]] (at' 0 3 pixelBase))) (fun t => (t.outputs, t.curCol)) =
      some ([.writePixel 1536 0xFFF80000], 1) := by decide

/-! ### Another configuration (spec/00_scope.md R6, R7): what follows from each parameter by the rule that names it -/

/-- The same codes mean what `otherConfig` says: 0x2A is RAMWR there, 0x10 CASET, 0x2C unknown. -/
theorem test_other_codes :
    decode otherConfig [0x2A] = .ok .ramwr [] ∧ decode otherConfig [0x10, 0, 1, 0, 2] = .ok (.caset 1 2) [] ∧
    decode otherConfig [0x2C] = .ok (.unknown 0x2C) [] ∧ encode otherConfig (.madctl 0x40) = [0x00, 0x40] := by decide
/-- Power-on: the mode line at 1 is Command, the window is columns 0 to 3 and rows 1 to 0. -/
theorem test_other_power_on :
    (State.powerOn otherConfig).mode = .command ∧ (State.powerOn otherConfig).selected = true ∧
    (State.powerOn otherConfig).colEnd = 3 ∧ (State.powerOn otherConfig).curRow = 1 := by decide
/-- Bit 6 is swap, bit 7 is mirror-Y; the mirrored column of 0 is 3, written last byte first. -/
theorem test_other_bits_and_surface :
    after (step (due [.chunk [0x40]] { State.powerOn otherConfig with mode := .data, pending := some ⟨0x00, 1, []⟩ }))
      (fun t => (t.mirrorX, t.mirrorY, t.swap)) = some (false, false, true) ∧
    (pixelWrite 0xF800 (flags false true false (at' 0 1 (State.powerOn otherConfig)))).surface =
      [(28, 0x00), (29, 0x00), (30, 0xF8), (31, 0xFF)] := by decide
/-- The levels: 0 selects Data, 1 asserts the reset. -/
theorem test_other_lines :
    after (step (due [.modeLine false []] (State.powerOn otherConfig))) (·.mode) = some .data ∧
    after (step (due [.resetLine true] (at' 3 0 (State.powerOn otherConfig)))) (fun t => (t.curCol, t.curRow, t.resetAsserted)) =
      some (0, 1, true) := by decide

/-! ### Witnesses: concrete terms that meet the hypotheses of each statement -/

theorem casetPending_ok {args : List Byte} (h : args.length < 4) : (casetPending args).PendingOk := by
  intro p hp
  obtain rfl : (⟨0x2A, 4, args⟩ : Pending) = p := by simpa [casetPending] using hp
  exact ⟨rfl, by simp, by simp, h⟩

theorem pendingOk_of_none {s : State} (h : s.pending = none) : s.PendingOk := by
  intro p hp
  rw [h] at hp
  cases hp

/-- This hardware's parameters are admitted (the premise of every statement that needs R7), and others are, whose commands are other bytes. -/
theorem witness_admitted : testConfig.Admitted ∧ base.config.Admitted ∧ otherConfig.Admitted := by decide
theorem witness_DecodeOfEncodeIsIdentity :
    testConfig.Admitted ∧ otherConfig.Admitted ∧ WellFormed otherConfig (.unknown 0x2C) = true ∧
    WellFormed testConfig (.caset 0xFFFF 0) = true ∧ WellFormed testConfig (.raset 0 0xFFFF) = true ∧ WellFormed testConfig .ramwr = true ∧
    WellFormed testConfig (.madctl 0xFF) = true ∧ WellFormed testConfig (.unknown 0xFF) = true := by decide
theorem witness_EncodeOfDecodeIsIdentity :
    decode testConfig [0x2A, 0xFF, 0xFF, 0x00, 0x00, 0x01] = .ok (.caset 0xFFFF 0) [0x01] ∧
    decode testConfig [0x2B, 0, 0, 0, 0] = .ok (.raset 0 0) [] ∧
    decode testConfig [0x2C, 0x2C] = .ok .ramwr [0x2C] ∧ decode testConfig [0x36, 0xFF] = .ok (.madctl 0xFF) [] ∧
    decode testConfig [0x35] = .ok (.unknown 0x35) [] := by decide
theorem witness_DecodeReadsExactlyTheCountedParameters :
    argCount testConfig 0x2A ≤ [(0 : Byte), 0, 0, 0].length ∧ [(0 : Byte), 0, 0].length < argCount testConfig 0x2A ∧
    argCount testConfig 0x2C ≤ ([] : List Byte).length ∧
    argCount testConfig 0x36 ≤ [(0 : Byte)].length ∧ ([] : List Byte).length < argCount testConfig 0x36 := by decide
theorem witness_ArgCountIsTheFixedTable :
    (0x01 : Byte) ≠ testConfig.cmdMadctl ∧ (0x01 : Byte) ≠ testConfig.cmdCaset ∧ (0x01 : Byte) ≠ testConfig.cmdRaset := by decide
theorem witness_StepRunsTheCommandItReads_code :
    (due [.chunk [0x2C]] base).events = .chunk [0x2C] :: [] ∧ (due [.chunk [0x2C]] base).mode = .command ∧
    decode testConfig [0x2C] = .ok .ramwr [] ∧ WellFormed testConfig .ramwr = true ∧
    decode testConfig [0x01] = .ok (.unknown 0x01) [] ∧ WellFormed testConfig (.unknown 0x01) = true := by decide
theorem witness_StepRunsTheCommandItReads_parameters :
    (due [.chunk [0, 9]] (casetPending [0, 1])).events = .chunk [0, 9] :: [] ∧ (due [.chunk [0, 9]] (casetPending [0, 1])).mode = .data ∧
    (casetPending [0, 1]).ramWriteActive = false ∧ (casetPending [0, 1]).pending = some ⟨0x2A, 4, [0, 1]⟩ ∧
    [(0 : Byte), 9] ≠ [] ∧ ([(0 : Byte), 1] ++ [0, 9]).length = 4 ∧ decode testConfig (0x2A :: ([0, 1] ++ [0, 9])) = .ok (.caset 1 9) [] ∧
    WellFormed testConfig (.caset 1 9) = true := by decide
theorem witness_StepRunsThePlacedCommand :
    decodeTableWordWith base.config 40 0x9F0000002B = some (.raset 0 159) ∧ decodeTableWordWith base.config 8 0x2C = some .ramwr ∧
    decodeTableWordWith base.config 8 0xFF = some (.unknown 0xFF) := by decide
theorem witness_PseudoEventsRunTheirCommand :
    WellFormed testConfig (.madctl 0x20) = true ∧ (due (Pseudo.instr testConfig (.madctl 0x20)) (casetPending [0])).selected = false ∧
    (due (Pseudo.instr testConfig (.madctl 0x20)) (casetPending [0])).events = Pseudo.instr testConfig (.madctl 0x20) ++ [] ∧
    WellFormed testConfig .ramwr = true ∧ (due (Pseudo.instr testConfig .ramwr) base).events = Pseudo.instr testConfig .ramwr ++ [] := by decide
theorem witness_NoEventNoChange : base.events = [] := rfl
theorem witness_EveryEventHasAStep :
    (due [.modeLine true [0x2A]] selBase).PendingOk ∧ (casetPending [0, 1, 2]).PendingOk ∧
    (due [.modeLine true [0x2A]] selBase).events = .modeLine true [0x2A] :: [] ∧
    ¬ BreaksHostDuty (.modeLine true [0x2A]) (due [.modeLine true [0x2A]] selBase) := by
  refine ⟨pendingOk_of_none rfl, casetPending_ok (by decide), rfl, ?_⟩
  unfold BreaksHostDuty
  decide
/-- Each of the four duty-breaking events, and its refusal. -/
theorem witness_DutyBreakingEventsHaveNoMove :
    refusal (step (due [.modeLine false [1]] selBase)) = some .repeatedLevelWithInflight ∧
    refusal (step (due [.modeLine true [1]] base)) = some .inflightWithoutTransfer ∧
    refusal (step (due [.selectLine false [1]] selBase)) = some .repeatedLevelWithInflight ∧
    refusal (step (due [.selectLine false [1]] base)) = some .inflightWithoutTransfer := by decide
theorem witness_BreaksHostDuty :
    BreaksHostDuty (.modeLine false [1]) selBase ∧ BreaksHostDuty (.modeLine true [1]) base ∧
    BreaksHostDuty (.selectLine false [1]) selBase ∧ BreaksHostDuty (.selectLine false [1]) base := by
  unfold BreaksHostDuty
  decide
theorem witness_AddressSetSetsTheAxisSwapChooses :
    base.swap = false ∧ (flags false false true base).swap = true ∧ bigEndian 0xFF 0xFF = 0xFFFF ∧ bigEndian 0x01 0x02 = 258 := by decide
theorem witness_RamwrSetsTheRamWriteFlagOnly :
    pixelBase.mode = .data ∧ pixelBase.ramWriteActive = true ∧ processChunk [0xF8] pixelBase = .next (pixelChunk [0xF8] pixelBase) ∧
    modeOfLevel testConfig true = .data ∧ modeLineEvent true [] { base with ramWriteActive := true } = .next pixelBase ∧
    base.mode = .command := ⟨rfl, rfl, rfl, rfl, rfl, rfl⟩
theorem witness_MadctlSetsTheOrientationFlags :
    (0x20 : Byte) >>> 5 = (0x3F : Byte) >>> 5 ∧ (0x20 : Byte) ≠ 0x3F ∧
    base.mirrorX = (0x1F : Byte).getLsbD 7 ∧ base.mirrorY = (0x1F : Byte).getLsbD 6 ∧ base.swap = (0x1F : Byte).getLsbD 5 ∧
    base.config.bitMirrorX = 7 ∧ base.config.bitMirrorY = 6 ∧ base.config.bitSwap = 5 := by decide
theorem witness_MadctlSetsTheOrientationFlags_chip : State.reset.config = Config.chip := rfl
theorem witness_UnknownOnlyReports : ¬ recognised testConfig 0x01 ∧ ¬ recognised testConfig 0x2D ∧ ¬ recognised testConfig 0x29 := by decide
/-- Each command answers a next state, and each exemption of the frame is met by the others. -/
theorem witness_CommandsLeaveTheRestUnchanged :
    exec (.caset 3 4) base = .next (withColumn base 3 4) ∧ exec (.raset 3 4) base = .next (withRow base 3 4) ∧
    exec .ramwr base = .next { base with ramWriteActive := true } ∧ exec (.madctl 0x20) base = .next (flags false false true base) ∧
    exec (.unknown 0) base = .next { base with outputs := [.diagUnknownCommand 0] } := ⟨rfl, rfl, rfl, rfl, rfl⟩
theorem witness_CommandsLeaveTheRestUnchanged_axes :
    (∀ a b, Instr.caset 3 4 = .caset a b → base.swap = false) ∧ (∀ a b, Instr.caset 3 4 = .raset a b → base.swap = true) ∧
    (∀ a b, Instr.raset 3 4 = .caset a b → base.swap = true) ∧ (∀ a b, Instr.raset 3 4 = .raset a b → base.swap = false) := by
  refine ⟨fun _ _ _ => rfl, fun _ _ h => ?_, fun _ _ h => ?_, fun _ _ _ => rfl⟩ <;> cases h
theorem witness_CommandsIgnoreParserAndLineState :
    exec (.raset 3 4) pixelBase = .next (withRow pixelBase 3 4) ∧ exec .ramwr base = .next { base with ramWriteActive := true } := ⟨rfl, rfl⟩
/-- Both sides of the third law: a MADCTL that changes swap, one that does not, and the coincidence. -/
theorem witness_CommandSetLaws :
    argCount testConfig testConfig.cmdRamwr = 0 ∧ execute testConfig.cmdRamwr [] base = .next { base with ramWriteActive := true } ∧
    argCount testConfig 0x01 = 0 ∧ execute 0x01 [] base = .next { base with outputs := [.diagUnknownCommand 0x01] } ∧
    swapOf testConfig 0x20 ≠ base.swap ∧ base ≠ withColumn base 3 4 ∧ swapOf testConfig 0x80 = base.swap ∧
    (let s := { base with colEnd := 159 }; s = withColumn s 0 159 ∧ s = withRow s 0 159) :=
  ⟨rfl, rfl, rfl, rfl, by decide, by decide, by decide, by decide⟩
theorem witness_ChunksAreRoutedByModeAndRamWriteFlag :
    base.mode = .command ∧ dataBase.mode = .data ∧ dataBase.ramWriteActive = false ∧ pixelBase.mode = .data ∧
    pixelBase.ramWriteActive = true ∧ dataBase.pending = none ∧ processChunk [0x12] dataBase = .next dataBase ∧
    (casetPending [0, 1, 0]).PendingOk ∧
    paramBytes [9] (casetPending [0, 1, 0]) = .next { withColumn dataBase 1 9 with pending := none } :=
  ⟨rfl, rfl, rfl, rfl, rfl, rfl, rfl, casetPending_ok (by decide), rfl⟩
theorem witness_CommandBytesStartFresh :
    argCount testConfig 0x2C = 0 ∧ argCount testConfig 0x01 = 0 ∧ argCount testConfig 0x2A ≠ 0 ∧ argCount testConfig 0x36 ≠ 0 := by decide
theorem witness_ParameterBytesAccumulate :
    dataBase.pending = none ∧ (casetPending [0, 1]).pending = some ⟨0x2A, 4, [0, 1]⟩ ∧ [(0 : Byte), 1].length + 1 ≠ 4 ∧
    (casetPending [0, 1, 2]).PendingOk ∧ (casetPending [0, 1, 2]).pending = some ⟨0x2A, 4, [0, 1, 2]⟩ ∧
    [(0 : Byte), 1, 2].length + 1 = 4 ∧
    modeLineEvent false [] (casetPending [0]) = .next { casetPending [0] with mode := .command } ∧
    selectLineEvent true [] (casetPending [0]) = .next (casetPending [0]) ∧
    endOfTransferEvent (casetPending [0]) = .next (casetPending [0]) ∧ chunkEvent [] (casetPending [0]) = .next (casetPending [0]) :=
  ⟨rfl, rfl, by decide, casetPending_ok (by decide), rfl, rfl, rfl, rfl, rfl, rfl⟩
theorem witness_SurplusBytesAreDiscarded :
    dataBase.pending = none ∧ (casetPending [0, 1]).PendingOk ∧ (casetPending [0, 1]).pending = some ⟨0x2A, 4, [0, 1]⟩ ∧
    [(0 : Byte), 1].length + [(0 : Byte), 2].length = 4 := ⟨rfl, casetPending_ok (by decide), rfl, rfl⟩
/-- A step that keeps the command, and one of each kind that does not. -/
theorem witness_IncompleteCommandsSurvive :
    (casetPending [0]).pending = some ⟨0x2A, 4, [0]⟩ ∧
    after (step (due [.chunk [1, 0]] (casetPending [0]))) (·.pending) = some (some ⟨0x2A, 4, [0, 1, 0]⟩) ∧
    after (step (due [.chunk [1, 0, 2]] (casetPending [0]))) (·.pending) = some none ∧
    after (step (due [.chunk [0x2C]] { casetPending [0] with mode := .command })) (·.pending) = some none ∧
    after (step (due [.resetLine false] (casetPending [0]))) (·.pending) = some none ∧
    after (step (due [.selectLine true []] { casetPending [0] with selected := true })) (·.pending) = some (some ⟨0x2A, 4, [0]⟩) := by
  decide
theorem witness_InterruptedCommandsLeaveNoTrace :
    (casetPending [0]).pending = some ⟨0x2A, 4, [0]⟩ ∧ [(0 : Byte)].length + [(1 : Byte), 2].length < 4 ∧
    modeLineEvent false [] (casetPending [0]) = .next { casetPending [0] with mode := .command } := ⟨rfl, by decide, rfl⟩
theorem witness_PixelChunksAreFramedInPairs :
    [(0xF8 : Byte), 0x00, 0x07][2 * 0]? = some 0xF8 ∧ [(0xF8 : Byte), 0x00, 0x07][2 * 0 + 1]? = some 0x00 ∧
    [(0xF8 : Byte), 0x00].length % 2 = 0 ∧ [(1 : Half), 2][0]? = some 1 ∧ [(1 : Half), 2][1]? = some 2 ∧
    (due [.chunk [0xF8, 0x00, 0x07]] pixelBase).events = .chunk [0xF8, 0x00, 0x07] :: [] ∧ pixelBase.mode = .data ∧
    pixelBase.ramWriteActive = true := by decide
theorem witness_ChunkBoundariesDoNotMatter :
    (casetPending []).PendingOk ∧ (casetPending []).mode = .data ∧ (casetPending []).ramWriteActive = false ∧
    ([[0, 0], [0, 0x7F]] : List (List Byte)).flatten = ([[0], [], [0, 0, 0x7F]] : List (List Byte)).flatten ∧
    pixelBase.mode = .data ∧ pixelBase.ramWriteActive = true ∧ (∀ c ∈ ([[1, 2], [3, 4]] : List (List Byte)), c.length % 2 = 0) ∧
    (∀ d ∈ ([[1, 2, 3, 4]] : List (List Byte)), d.length % 2 = 0) ∧
    ([[1, 2], [3, 4]] : List (List Byte)).flatten = ([[1, 2, 3, 4]] : List (List Byte)).flatten ∧ base.mode = .command ∧
    ([[0x2C], [0x00]] : List (List Byte)).flatten = ([[0x2C, 0x00]] : List (List Byte)).flatten ∧
    ([[0x2C], [0x00]] : List (List Byte)).getLast? = some [0x00] :=
  ⟨casetPending_ok (by decide), by decide⟩
theorem witness_FlushedBytesActAsAChunk :
    [(0x2A : Byte)] ≠ [] ∧ selBase.selected = true ∧ modeOfLevel testConfig true ≠ selBase.mode ∧
    modeLineEvent true [0x2A] selBase = .next { selBase with
      mode := .data, pending := some ⟨0x2A, 4, []⟩, outputs := [.stopTransfer, .requestChunk] } := ⟨by decide, rfl, by decide, rfl⟩
theorem witness_AdvanceStepsTheFastAxisFirst :
    (at' 126 0 base).curCol.toNat + 1 ≤ base.colEnd.toNat ∧ base.colEnd.toNat < (at' 127 0 base).curCol.toNat + 1 ∧
    (at' 127 158 base).curRow.toNat + 1 ≤ base.rowEnd.toNat ∧ base.rowEnd.toNat < (at' 127 159 base).curRow.toNat + 1 ∧
    base.swap = false ∧ (flags false false true base).swap = true ∧
    (let s := { at' 3 4 base with colStart := 3, colEnd := 3, rowStart := 4, rowEnd := 4 }
     s.curCol = s.colStart ∧ s.colStart = s.colEnd ∧ s.curRow = s.rowStart ∧ s.rowStart = s.rowEnd) ∧
    (let s := { at' 10 7 base with colStart := 10, colEnd := 5 }; s.curCol = s.colStart ∧ s.colEnd < s.colStart) ∧
    (let s := { at' 5 9 base with rowStart := 9, rowEnd := 2 }; s.curRow = s.rowStart ∧ s.rowEnd < s.rowStart) := by decide
/-- The first and the last pixel of the surface, and one inside the surface outside its window. -/
theorem witness_SamplesInsideTheSurfaceAreWritten :
    sinkX base = (0 : Nat) ∧ sinkY base = (0 : Nat) ∧ sinkX (at' 127 159 base) = (127 : Nat) ∧ sinkY (at' 127 159 base) = (159 : Nat) ∧
    127 < testConfig.width ∧ 159 < testConfig.height ∧ sinkX (at' 100 0 { base with colEnd := 9 }) = (100 : Nat) := by decide
/-- Each side of the surface, at its first position outside. -/
theorem witness_SamplesOutsideTheSurfaceMarkTheFault :
    (testConfig.width : Int) ≤ sinkX (at' 128 0 base) ∧ sinkX (flags false true false (at' 128 0 base)) < 0 ∧
    (testConfig.height : Int) ≤ sinkY (at' 0 160 base) ∧ sinkY (flags true false false (at' 0 160 base)) < 0 := by decide
theorem witness_SamplesWriteTheirFourBytesOnly :
    sinkOffset base = some 0 ∧ sinkOffset (at' 127 159 base) = some 81916 ∧ sinkOffset (at' 128 0 base) = none := by decide
/-- The first and the last raster index of the whole surface, in both orders. -/
theorem witness_RasterLaw :
    base.colStart ≤ base.colEnd ∧ base.rowStart ≤ base.rowEnd ∧ windowArea base = 20480 ∧ 20479 < windowArea base ∧
    (at' 0 0 base).curCol.toNat = rasterCol base 0 ∧ (at' 0 0 base).curRow.toNat = rasterRow base 0 ∧
    (at' 127 159 base).curCol.toNat = rasterCol base 20479 ∧ (at' 127 159 base).curRow.toNat = rasterRow base 20479 ∧
    (at' 1 0 base).curCol.toNat = rasterCol (flags false false true base) 160 ∧
    (at' 1 0 base).curRow.toNat = rasterRow (flags false false true base) 160 := by decide
theorem witness_WindowsInsideTheSurfaceNeverFault :
    CursorInWindow (at' 127 159 base) ∧ (at' 127 159 base).colEnd.toNat < testConfig.width ∧
    (at' 127 159 base).rowEnd.toNat < testConfig.height ∧ [(1 : Half), 2][0]? = some 1 ∧ [(1 : Half), 2][1]? = some 2 := by
  unfold CursorInWindow
  decide
/-- The first three writes of P2 (section 3): window c0..2, r0..1, flags 101. -/
theorem test_writes_follow_the_cursor :
    (pixelWrites [1, 2, 3] (flags true false true { base with colEnd := 2, rowEnd := 1 })).outputs =
      [.writePixel 508 0xFF000008, .writePixel 1020 0xFF000010, .writePixel 504 0xFF000018] := by decide
theorem witness_PullLoopRequestsOncePerEvent :
    (due [.chunk [0x2C]] selBase).events = .chunk [0x2C] :: [] ∧
    step (due [.chunk [0x2C]] selBase) = .next { selBase with ramWriteActive := true, outputs := [.requestChunk] } ∧
    step (due [.chunk [0x2C]] base) = .next { base with ramWriteActive := true } ∧
    base.mode = .command ∧ dataBase.mode = .data := ⟨rfl, rfl, rfl, rfl, rfl⟩
theorem witness_ModeLineTransition :
    modeOfLevel testConfig false = base.mode ∧ modeOfLevel testConfig true ≠ base.mode ∧ base.selected = false ∧ selBase.selected = true ∧
    modeOfLevel testConfig true ≠ selBase.mode ∧ (due [.modeLine false []] base).events = .modeLine false [] :: [] ∧
    (due [.modeLine true []] selBase).events = .modeLine true [] :: [] ∧
    (due [.modeLine true [0x2A]] selBase).events = .modeLine true (0x2A :: []) :: [] := by decide
theorem witness_SelectLineTransition :
    selectActive testConfig true = base.selected ∧ selectActive testConfig false = true ∧ selectActive testConfig true = false ∧
    selBase.selected = true ∧
    (due [.selectLine true []] base).events = .selectLine true [] :: [] ∧
    (due [.selectLine true [0x2C]] selBase).events = .selectLine true (0x2C :: []) :: [] := by decide
theorem witness_ResetLineTransition :
    (due [.resetLine false] base).events = .resetLine false :: [] ∧ false = testConfig.resetActiveLevel ∧ base.resetAsserted = false ∧
    ({ base with resetAsserted := true } : State).resetAsserted = true ∧ true ≠ testConfig.resetActiveLevel := by decide
theorem witness_EndOfTransferDoesNothing :
    (due [.endOfTransfer] base).events = .endOfTransfer :: [] ∧ selBase.mode = .command ∧ selBase.selected = true ∧
    (due [.chunk []] selBase).events = .chunk [] :: [] := by decide
/-- `base` meets the invariant, and so does a state with a write and a mark behind it. -/
theorem witness_EveryStepKeepsInv : base.Inv ∧ step (due [.chunk [0x2C]] base) = .next { base with ramWriteActive := true } := by
  refine ⟨⟨by decide, pendingOk_of_none rfl, by unfold State.CursorOk; decide, fun _ _ h => (nomatch h), fun _ h => (nomatch h), ?_⟩, rfl⟩
  exact ⟨by decide, fun _ h => (nomatch h), rfl⟩
theorem witness_SurfaceNeverFeedsBack :
    step (due [.endOfTransfer] base) = .next base ∧ step (due [.modeLine false [1]] base) = .refused .repeatedLevelWithInflight ∧
    step (due [.chunk [0]] { casetPending [] with pending := some ⟨0x2A, 1, []⟩ }) = .fault (.truncatedCommand 0x2A) ∧
    Memory.wf [(0, 1), (4, 2)] := ⟨rfl, rfl, rfl, by decide⟩
/-- Each premise of the table, and a step for each exemption. -/
theorem witness_WhoWritesEachRegister :
    (due [.chunk [0x2C]] base).events = .chunk [0x2C] :: [] ∧
    step (due [.chunk [0x2C]] base) = .next { base with ramWriteActive := true } ∧
    ¬ IsResetTransition (.chunk [0x2C]) base ∧ NoAddressSetPending dataBase ∧ dataBase.ramWriteActive = false ∧
    after (step (due [.chunk [0, 1, 0, 9]] (casetPending []))) (fun t => (t.colEnd, t.curCol)) = some (9, 1) ∧
    after (step (due [.chunk [0xA0]] { dataBase with pending := some ⟨0x36, 1, []⟩ })) (·.swap) = some true ∧
    after (step (due [.chunk [0, 0]] (at' 128 0 pixelBase))) (·.fault) = some (some (.outOfSurface 128 0)) := by
  refine ⟨rfl, rfl, id, fun _ h => (nomatch h), rfl, ?_⟩
  decide
theorem witness_RamWriteFlagWriters :
    (due [.chunk [0x2C]] base).PendingOk ∧ step (due [.chunk [0x2C]] base) = .next { base with ramWriteActive := true } ∧
    CommandModeBytes (.chunk [0x2C]) base ∧ CommandModeBytes (.modeLine true [0x2C]) selBase ∧
    IsResetTransition (.resetLine false) pixelBase ∧ ¬ CommandModeBytes (.chunk [0x2C]) dataBase ∧
    ¬ IsResetTransition (.chunk [0x2C]) dataBase ∧ dataBase.mode = .data := by
  refine ⟨pendingOk_of_none rfl, rfl, ⟨rfl, trivial⟩, ⟨rfl, by decide⟩, ⟨rfl, rfl⟩, ?_, id, rfl⟩
  rintro ⟨h, -⟩
  cases h
theorem witness_FaultMarkIsSticky :
    ({ base with fault := some (.outOfSurface 128 0) } : State).fault = some (.outOfSurface 128 0) ∧
    after (step (due [.chunk [0, 0]] { at' 129 0 pixelBase with fault := some (.outOfSurface 128 0) })) (·.fault) =
      some (some (.outOfSurface 128 0)) := by decide
theorem witness_OutputsOnlyGrow :
    (due [.modeLine true [0x01]] selBase).events = .modeLine true [0x01] :: [] ∧ selBase.selected = true ∧
    modeOfLevel testConfig true ≠ selBase.mode ∧
    after (step (due [.modeLine true [0x01]] selBase)) (·.outputs) =
      some [.stopTransfer, .diagUnknownCommand 0x01, .requestChunk] := by decide
theorem witness_ConfigurationIsNeverWritten :
    step (due [.chunk [0x2C]] base) = .next { base with ramWriteActive := true } ∧
    exec .ramwr base = .next { base with ramWriteActive := true } ∧ (core.run 1 base : Result) = .next base := ⟨rfl, rfl, rfl⟩

end Sys2Proof.Tests
end

section
/-! Proofs of the statements about the encoding (spec/30_encoding.md). -/

namespace Sys2Proof

/-- The table's last row (30_encoding.md R44): under any configuration only MADCTL, CASET and RASET take parameters. -/
theorem argCount_eq_zero_of_ne {c : Config} {code : Byte} (hm : code ≠ c.cmdMadctl) (hc : code ≠ c.cmdCaset)
    (hr : code ≠ c.cmdRaset) : argCount c code = 0 := by
  simp [argCount, hm, hc, hr]

/-- Settles O4, row by row of the table; the codes of an admitted configuration are distinct, so each is found in its own row. -/
theorem argCountIsTheFixedTable : Obligations.ArgCountIsTheFixedTable := fun _ h =>
  ⟨argCount_cmdMadctl, argCount_cmdCaset h, argCount_cmdRaset h, argCount_cmdRamwr h,
    fun _ => argCount_eq_zero_of_ne⟩

end Sys2Proof
end

section
/-! Proofs of the statements about the protocol (spec/40_protocol.md). -/

namespace Sys2Proof.Machine

/-- A command whose code has no parameters runs as the instruction the decoder reads from its code alone (R57). -/
theorem commandByte_of_argCount_eq_zero {b : Byte} {s : State} (h : argCount s.config b = 0) :
    ∃ i, decode s.config [b] = .ok i [] ∧ commandByte b s = exec i (s.setPending none) := by
  have hd : ∃ i, decode s.config [b] = .ok i [] := by
    rcases decode_of_argCount_eq_zero h [] with ⟨-, hd⟩ | ⟨-, hd⟩
    · exact ⟨_, hd⟩
    · exact ⟨_, hd⟩
  obtain ⟨i, hd⟩ := hd
  exact ⟨i, hd, by simp [commandByte, execute, h, hd]⟩

/-- A command whose code has parameters starts an empty record and does nothing else (R57). -/
theorem commandByte_of_argCount_ne_zero {b : Byte} {s : State} (h : argCount s.config b ≠ 0) :
    commandByte b s = .next (s.setPending (some { code := b, expected := argCount s.config b, args := [] })) :=
  if_neg h

/-- Both branches of a command byte overwrite the accumulator before anything reads it (R57). -/
theorem commandByte_setPending (b : Byte) (s : State) (q : Option Pending) :
    commandByte b (s.setPending q) = commandByte b s := by
  by_cases h : argCount s.config b = 0
  · simp [commandByte, h, State.setPending]
  · simp [commandByte, h, State.setPending]

/-- A command byte answers a next state under every configuration (R57). -/
theorem commandByte_next (b : Byte) (s : State) : ∃ t, commandByte b s = .next t := by
  by_cases h : argCount s.config b = 0
  · obtain ⟨i, -, e⟩ := commandByte_of_argCount_eq_zero h
    rw [e]
    exact exec_next i _
  · exact ⟨_, commandByte_of_argCount_ne_zero h⟩

/-- Settles O23: each branch of a command byte by its own law, the old record without influence because both branches overwrite it. -/
theorem commandBytesStartFresh : Obligations.CommandBytesStartFresh := fun s b =>
  ⟨commandByte_of_argCount_eq_zero, commandByte_of_argCount_ne_zero, commandByte_setPending b s, commandByte_next b s⟩

end Sys2Proof.Machine
end

section
/-! Proofs of the statements about the commands (spec/41_commands.md), with the laws of whole chunks and of byteless mode-line transitions they
need. -/

namespace Sys2Proof.Machine

/-- A command-mode chunk (spec/40_protocol.md R55). -/
theorem processChunk_of_command {s : State} (bs : List Byte) (h : s.mode = .command) : processChunk bs s = commandChunk bs s := by
  simp [processChunk, h]

/-- A data-mode chunk while the ram-write flag is set is pixels (R55, R58). -/
theorem processChunk_of_ramWrite {s : State} (bs : List Byte) (hm : s.mode = .data) (hr : s.ramWriteActive = true) :
    processChunk bs s = .next (pixelChunk bs s) := by
  simp [processChunk, dataChunk, hm, hr]

/-- An empty command-mode chunk still clears the ram-write flag (R56). -/
theorem commandChunk_nil (s : State) : commandChunk [] s = .next (s.setRamWriteActive false) := rfl

/-- Samples leave the ram-write flag as it is. -/
@[simp] theorem pixelWrites_ramWriteActive (vs : List Half) (s : State) :
    (pixelWrites vs s).ramWriteActive = s.ramWriteActive := by
  induction vs generalizing s with
  | nil => rfl
  | cons v vs ih =>
    obtain ⟨-, -, -, -, -, hr, -⟩ := pixelWrite_keeps v s
    rw [pixelWrites_cons, ih, hr]

/-- With no bytes in flight a mode-line event sets the mode and appends effects, and does nothing else (spec/43_lines_and_transport.md R86). -/
theorem modeLineEvent_nil {level : Level} {s t : State} (h : modeLineEvent level [] s = .next t) :
    ∃ outs, t = { s with mode := modeOfLevel s.config level, outputs := s.outputs ++ outs } := by
  unfold modeLineEvent at h
  split at h
  · next hl =>
    obtain rfl : s = t := by simpa using h
    exact ⟨[], by simp [hl]⟩
  · split at h
    · next hs =>
      obtain rfl : _ = t := by simpa [flush, requestIfSelected, hs] using h
      exact ⟨[.stopTransfer, .requestChunk], by simp [State.emit, State.setMode]⟩
    · obtain rfl : _ = t := by simpa using h
      exact ⟨[], by simp [State.setMode]⟩

/-- Settles O15: the flag stays while pixels flow because no sample writes it, and over a byteless transition because only the mode and the
outputs change there. -/
theorem ramwrSetsTheRamWriteFlagOnly : Obligations.RamwrSetsTheRamWriteFlagOnly := by
  refine ⟨fun c => ⟨rfl, argCount_cmdRamwr⟩, exec_ramwr, fun s => ?twice, fun s t bs hm hr h => ?data,
    fun s t level _ hr h => ?modeLine, fun s hm => ?command⟩
  case twice =>
    rw [exec_ramwr, andThen_next, exec_ramwr]
    rfl
  case data =>
    rw [processChunk_of_ramWrite bs hm hr] at h
    obtain rfl : pixelChunk bs s = t := by simpa using h
    simpa [pixelChunk] using hr
  case modeLine =>
    obtain ⟨outs, rfl⟩ := modeLineEvent_nil h
    exact hr
  case command =>
    rw [processChunk_of_command [] hm]
    exact commandChunk_nil s

end Sys2Proof.Machine
end

section
/-! Proofs of the statements about the pixel writer (spec/42_pixel_writer.md). -/

namespace Sys2Proof.Machine

/-- With swap set, mirror-X governs the column (R75). -/
theorem sinkX_of_swap {s : State} (h : s.swap = true) : sinkX s = mirrored s.mirrorX s.config.width s.curCol := by
  simp [sinkX, h]

/-- With swap set, mirror-Y governs the row (R75). -/
theorem sinkY_of_swap {s : State} (h : s.swap = true) : sinkY s = mirrored s.mirrorY s.config.height s.curRow := by
  simp [sinkY, h]

/-- With swap clear, mirror-Y governs the column (R75). -/
theorem sinkX_of_not_swap {s : State} (h : s.swap = false) : sinkX s = mirrored s.mirrorY s.config.width s.curCol := by
  simp [sinkX, h]

/-- With swap clear, mirror-X governs the row (R75). -/
theorem sinkY_of_not_swap {s : State} (h : s.swap = false) : sinkY s = mirrored s.mirrorX s.config.height s.curRow := by
  simp [sinkY, h]

/-- Settles O31: swap selects the flag of each axis, and the two formulas of the statement are `mirrored` written out. -/
theorem sinkCoordinatesFollowTheFlags : Obligations.SinkCoordinatesFollowTheFlags := fun _ =>
  ⟨fun h => ⟨sinkX_of_swap h, sinkY_of_swap h⟩, fun h => ⟨sinkX_of_not_swap h, sinkY_of_not_swap h⟩⟩

end Sys2Proof.Machine
end

section
/-! Proofs of the statements about the lines and the transport (spec/43_lines_and_transport.md). -/

namespace Sys2Proof.Machine

/-- A step delivers the next event, already taken from the queue (R83). -/
theorem step_of_events {s : State} {e : Event} {es : List Event} (he : s.events = e :: es) :
    step s = runEvent e (s.setEvents es) := by
  simp [step, runNextEvent, he]

/-- The pull loop requests the next chunk while selected (R84). -/
theorem requestIfSelected_of_selected {s : State} (hs : s.selected = true) : requestIfSelected s = s.emit .requestChunk :=
  if_pos hs

/-- An empty chunk is processed as any other: in command mode it clears the ram-write flag, and while selected the request follows (R84, R85). -/
theorem chunkEvent_nil_of_command {s : State} (hm : s.mode = .command) (hs : s.selected = true) :
    chunkEvent [] s = .next ((s.setRamWriteActive false).emit .requestChunk) := by
  have hs' : (s.setRamWriteActive false).selected = true := hs
  rw [chunkEvent, processChunk_of_command [] hm, commandChunk_nil, andThen_next, requestIfSelected_of_selected hs']

/-- Settles O44: the end of a transfer reaches no chunk processing, while an empty chunk goes through it and through the pull loop's request. -/
theorem endOfTransferDoesNothing : Obligations.EndOfTransferDoesNothing := by
  refine ⟨fun s es he => ?endOfTransfer, fun s es hm hs he => ?emptyChunk⟩
  case endOfTransfer => exact step_of_events he
  case emptyChunk => exact (step_of_events he).trans (chunkEvent_nil_of_command (s := s.setEvents es) hm hs)

end Sys2Proof.Machine
end

section
/-! Proofs of the statements about reset and hazards (spec/70_reset_and_hazards.md), with the laws of a record that stays incomplete they need. -/

namespace Sys2Proof.Machine

open Claims

/-- A parameter byte short of the count extends the record and does nothing else (spec/40_protocol.md R61). -/
theorem paramByte_of_short {s : State} {p : Pending} (b : Byte) (hp : s.pending = some p)
    (h : p.args.length + 1 < p.expected) :
    paramByte b s = .next (s.setPending (some { p with args := p.args ++ [b] })) := by
  have hl : (p.args ++ [b]).length ≠ p.expected := by simp; omega
  simp only [paramByte, hp, if_neg hl]

/-- Parameter bytes that together stay short of the count extend the record and do nothing else (R61). -/
theorem paramBytes_of_short {s : State} {p : Pending} (bs : List Byte) (hp : s.pending = some p)
    (h : p.args.length + bs.length < p.expected) :
    paramBytes bs s = .next (s.setPending (some { p with args := p.args ++ bs })) := by
  induction bs generalizing s p with
  | nil => simp [paramBytes, State.setPending, ← hp]
  | cons b bs ih =>
    rw [List.length_cons] at h
    rw [paramBytes, paramByte_of_short b hp (by omega), andThen_next, ih rfl (by simp; omega)]
    simp [State.setPending]

/-- A data-mode chunk while the ram-write flag is clear is parameters (R55, R58). -/
theorem processChunk_of_params {s : State} (bs : List Byte) (hm : s.mode = .data) (hr : s.ramWriteActive = false) :
    processChunk bs s = paramBytes bs s := by
  simp [processChunk, dataChunk, hm, hr]

/-- Samples leave the parameter accumulator as it is. -/
@[simp] theorem pixelWrites_pending (vs : List Half) (s : State) : (pixelWrites vs s).pending = s.pending := by
  induction vs generalizing s with
  | nil => rfl
  | cons v vs ih =>
    obtain ⟨-, -, -, -, hp, -⟩ := pixelWrite_keeps v s
    rw [pixelWrites_cons, ih, hp]

/-- The pull loop's request leaves the parameter accumulator as it is (spec/43_lines_and_transport.md R84). -/
@[simp] theorem requestIfSelected_pending (s : State) : (requestIfSelected s).pending = s.pending := by
  rcases requestIfSelected_cases s with ⟨-, e⟩ | ⟨-, e⟩ <;> simp [e]

/-- `p`'s command is pending, with the parameters of `p` first among those it holds. -/
def StillPending (p : Pending) (t : State) : Prop :=
  ∃ q, t.pending = some q ∧ q.code = p.code ∧ q.expected = p.expected ∧ p.args <+: q.args

theorem stillPending_of_append {p : Pending} {t : State} (ps : List Byte)
    (h : t.pending = some { p with args := p.args ++ ps }) : StillPending p t :=
  ⟨_, h, rfl, rfl, List.prefix_append _ _⟩

theorem stillPending_of_eq {p : Pending} {t : State} (h : t.pending = some p) : StillPending p t :=
  ⟨p, h, rfl, rfl, List.prefix_rfl⟩

/-- Only the parameter accumulator matters to a command's being pending. -/
theorem stillPending_congr {p : Pending} {t u : State} (h : u.pending = t.pending) (ht : StillPending p t) :
    StillPending p u := by
  obtain ⟨q, hq, hqp⟩ := ht
  exact ⟨q, h.trans hq, hqp⟩

/-- The bytes can end the pending command `p`: command bytes discard it, parameters that reach the count complete it (R57, R61). -/
def CanEndPending (p : Pending) (bs : List Byte) (s : State) : Prop :=
  (s.mode = .command ∧ bs ≠ []) ∨
  (s.mode = .data ∧ s.ramWriteActive = false ∧ p.expected ≤ p.args.length + bs.length)

/-- A chunk keeps the pending command unless its bytes can end it, by the route they take (R55 to R58). -/
theorem processChunk_stillPending {bs : List Byte} {s t : State} {p : Pending} (hp : s.pending = some p)
    (h : processChunk bs s = .next t) : StillPending p t ∨ CanEndPending p bs s := by
  cases hm : s.mode with
  | command =>
    cases bs with
    | nil =>
      rw [processChunk_of_command [] hm, commandChunk_nil] at h
      obtain rfl : s.setRamWriteActive false = t := by simpa using h
      exact .inl (stillPending_of_eq hp)
    | cons b bs => exact .inr (.inl ⟨hm, List.cons_ne_nil b bs⟩)
  | data =>
    cases hr : s.ramWriteActive with
    | true =>
      rw [processChunk_of_ramWrite bs hm hr] at h
      obtain rfl : pixelChunk bs s = t := by simpa using h
      exact .inl (stillPending_of_eq (by simpa [pixelChunk] using hp))
    | false =>
      by_cases hl : p.expected ≤ p.args.length + bs.length
      · exact .inr (.inr ⟨hm, hr, hl⟩)
      · rw [processChunk_of_params bs hm hr, paramBytes_of_short bs hp (by omega)] at h
        obtain rfl : s.setPending (some { p with args := p.args ++ bs }) = t := by simpa using h
        exact .inl (stillPending_of_append bs rfl)

/-- A flush keeps the pending command unless its bytes can end it; one without bytes is not processed (spec/43_lines_and_transport.md R86). -/
theorem flush_stillPending {bs : List Byte} {s t : State} {p : Pending} (hp : s.pending = some p)
    (h : flush bs s = .next t) : StillPending p t ∨ CanEndPending p bs s := by
  cases bs with
  | nil =>
    obtain rfl : s = t := by simpa [flush] using h
    exact .inl (stillPending_of_eq hp)
  | cons b bs => exact processChunk_stillPending hp h

/-- An event keeps the pending command unless its bytes can end it or it is the reset transition (R119, event by event). -/
theorem EventCase.stillPending {s t : State} {e : Event} {p : Pending} (h : EventCase s e t) (hp : s.pending = some p) :
    StillPending p t ∨ CanEndPending p (eventBytes e) s ∨ IsResetTransition e s := by
  cases h with
  | chunk bs u he h ht =>
    subst he ht
    exact (processChunk_stillPending hp h).imp (stillPending_congr (requestIfSelected_pending u)) .inl
  | modeFlush l bs u he hl hs h ht =>
    subst he ht
    exact (flush_stillPending (s := s.emit .stopTransfer) hp h).imp (stillPending_congr (by simp)) .inl
  | selectOff l bs u he hl hs h ht =>
    subst he ht
    exact (flush_stillPending (s := s.emit .stopTransfer) hp h).imp (stillPending_congr (by simp)) .inl
  | resetOn l he hl hs ht =>
    subst he
    exact .inr (.inr ⟨hl, hs⟩)
  | modeSame l he hl ht => exact .inl (stillPending_of_eq (by rw [ht, hp]))
  | modeIdle l he hl hs ht => exact .inl (stillPending_of_eq (by simp [ht, hp]))
  | selectSame l he hl ht => exact .inl (stillPending_of_eq (by rw [ht, hp]))
  | selectOn l he hl hs ht => exact .inl (stillPending_of_eq (by simp [ht, hp]))
  | resetHeld l he hl hs ht => exact .inl (stillPending_of_eq (by rw [ht, hp]))
  | resetOff l he hl ht => exact .inl (stillPending_of_eq (by simp [ht, hp]))
  | endOfTransfer he ht => exact .inl (stillPending_of_eq (by rw [ht, hp]))

/-- Bytes of any event that arrive in command mode are processed as command bytes. -/
theorem commandModeBytes_of_ne_nil {e : Event} {s : State} (hm : s.mode = .command) (hb : eventBytes e ≠ []) :
    CommandModeBytes e s := by
  cases e with
  | chunk bs => exact ⟨hm, trivial⟩
  | modeLine l bs => exact ⟨hm, hb⟩
  | selectLine l bs => exact ⟨hm, hb⟩
  | resetLine l => exact absurd rfl hb
  | endOfTransfer => exact absurd rfl hb

/-- Settles O26: a step without an event changes nothing, and any other is one event, which ends the record only by the bytes it carries or by
the reset procedure. -/
theorem incompleteCommandsSurvive : Obligations.IncompleteCommandsSurvive := by
  intro s t p hp h
  cases he : s.events with
  | nil =>
    obtain rfl : s = t := by simpa [step, runNextEvent, he] using h
    exact .inl (stillPending_of_eq hp)
  | cons e es =>
    rcases (step_cases he h).stillPending hp with hk | (⟨hm, hb⟩ | ⟨hm, hr, hl⟩) | hreset
    · exact .inl hk
    · exact .inr (.inl ⟨e, es, rfl, commandModeBytes_of_ne_nil hm hb, hb⟩)
    · exact .inr (.inr (.inr ⟨e, es, rfl, hm, hr, hl⟩))
    · exact .inr (.inr (.inl ⟨e, es, rfl, hreset⟩))

end Sys2Proof.Machine
end

section
/-! Proofs of the statements about the encoding (spec/30_encoding.md) that rest on reading and writing big-endian halves. -/

namespace Sys2Proof

/-- A half as a number: the first byte counts 256 (spec/20_memory.md R35). -/
theorem halfOfBytes_toNat (h l : Byte) : (halfOfBytes h l).toNat = h.toNat * 256 + l.toNat := by
  have hh := h.isLt
  have hl := l.isLt
  have hs : h.toNat <<< 8 < 65536 := by omega
  have hor : h.toNat <<< 8 ||| l.toNat = h.toNat * 2 ^ 8 + l.toNat := by
    rw [← Nat.shiftLeft_add_eq_or_of_lt hl, Nat.shiftLeft_eq]
  simpa [halfOfBytes, Nat.mod_eq_of_lt hs, Nat.mod_eq_of_lt (show h.toNat < 65536 by omega),
    Nat.mod_eq_of_lt (show l.toNat < 65536 by omega)] using hor

theorem halfOfBytes_eq_bigEndian (h l : Byte) : halfOfBytes h l = Claims.bigEndian h l := by
  have hh := h.isLt
  have hl := l.isLt
  apply BitVec.eq_of_toNat_eq
  rw [halfOfBytes_toNat, Claims.bigEndian, BitVec.toNat_ofNat]
  omega

/-- Reading back the two bytes a half is written as. -/
@[simp] theorem halfOfBytes_bytesOfHalf (v : Half) : halfOfBytes ((v >>> 8).setWidth 8) (v.setWidth 8) = v := by
  have hv := v.isLt
  apply BitVec.eq_of_toNat_eq
  rw [halfOfBytes_toNat]
  simp only [BitVec.toNat_setWidth, BitVec.toNat_ushiftRight, Nat.shiftRight_eq_div_pow]
  omega

/-- Writing back a half is writing the two bytes it was read from. -/
@[simp] theorem bytesOfHalf_halfOfBytes (h l : Byte) : bytesOfHalf (halfOfBytes h l) = [h, l] := by
  have hh := h.isLt
  have hl := l.isLt
  have high : (halfOfBytes h l >>> 8).setWidth 8 = h := by
    apply BitVec.eq_of_toNat_eq
    simp only [BitVec.toNat_setWidth, BitVec.toNat_ushiftRight, Nat.shiftRight_eq_div_pow, halfOfBytes_toNat]
    omega
  have low : (halfOfBytes h l).setWidth 8 = l := by
    apply BitVec.eq_of_toNat_eq
    simp only [BitVec.toNat_setWidth, halfOfBytes_toNat]
    omega
  rw [bytesOfHalf, high, low]

/-- Settles O1, command by command: the decoder finds the code in its own row, and the bounds read back as the halves written. -/
theorem decodeOfEncodeIsIdentity : Obligations.DecodeOfEncodeIsIdentity := by
  intro c hc i rest hw
  cases i with
  | caset start stop => simp [encode, bytesOfHalf]
  | raset start stop => simp [encode, bytesOfHalf, decode_raset hc]
  | ramwr => exact decode_ramwr hc rest
  | madctl a => exact decode_madctl hc a rest
  | unknown code => exact decode_unknown (of_decide_eq_true hw) rest

/-- Settles O2: each row the decoder can accept, with the bytes it read. -/
theorem encodeOfDecodeIsIdentity : Obligations.EncodeOfDecodeIsIdentity := by
  intro c bs i rest h
  refine ⟨Machine.wellFormed_of_decode h, ?_⟩
  rcases decode_cases h with ⟨_, _, _, _, rfl, rfl⟩ | ⟨_, _, _, _, rfl, rfl⟩ | ⟨rfl, rfl⟩ | ⟨a, rfl, rfl⟩ | ⟨code, rfl, -, rfl⟩
  · simp [encode]
  · simp [encode]
  · rfl
  · rfl
  · rfl

/-- Four bytes or more are two bounds and the bytes after them. -/
theorem eq_cons_four_of_length {ps : List Byte} (h : 4 ≤ ps.length) :
    ∃ p0 p1 p2 p3, ps = p0 :: p1 :: p2 :: p3 :: ps.drop 4 := by
  match ps, h with
  | p0 :: p1 :: p2 :: p3 :: _, _ => exact ⟨p0, p1, p2, p3, rfl⟩

theorem decodeBounds_of_short {code : Byte} {mk : Half → Half → Instr} {ps : List Byte} (h : ps.length < 4) :
    decodeBounds code mk ps = .rejected (.missingParameters code) := by
  match ps, h with
  | [], _ | [_], _ | [_, _], _ | [_, _, _], _ => rfl

/-- A code with its counted parameters is decoded, and they are what is read (R44). -/
theorem decode_of_argCount_le {c : Config} (hc : c.Admitted) {code : Byte} {ps : List Byte} (h : argCount c code ≤ ps.length) :
    ∃ i, decode c (code :: ps) = .ok i (ps.drop (argCount c code)) := by
  by_cases hr : recognised c code
  · rcases hr with rfl | rfl | rfl | rfl
    · rw [argCount_cmdCaset hc] at h ⊢
      obtain ⟨p0, p1, p2, p3, e⟩ := eq_cons_four_of_length h
      exact ⟨_, (congrArg (fun qs => decode c (_ :: qs)) e).trans (decode_caset p0 p1 p2 p3 _)⟩
    · rw [argCount_cmdRaset hc] at h ⊢
      obtain ⟨p0, p1, p2, p3, e⟩ := eq_cons_four_of_length h
      exact ⟨_, (congrArg (fun qs => decode c (_ :: qs)) e).trans (decode_raset hc p0 p1 p2 p3 _)⟩
    · rw [argCount_cmdRamwr hc]
      exact ⟨_, decode_ramwr hc ps⟩
    · rw [argCount_cmdMadctl] at h ⊢
      match ps, h with
      | a :: rest, _ => exact ⟨_, decode_madctl hc a rest⟩
  · rw [argCount_unknown hr]
    exact ⟨_, decode_unknown hr ps⟩

/-- A code with fewer parameters than counted is rejected by name (R49). -/
theorem decode_of_length_lt {c : Config} (hc : c.Admitted) {code : Byte} {ps : List Byte} (h : ps.length < argCount c code) :
    decode c (code :: ps) = .rejected (.missingParameters code) := by
  by_cases hr : recognised c code
  · rcases hr with rfl | rfl | rfl | rfl
    · rw [argCount_cmdCaset hc] at h
      simp [decode, decodeBounds_of_short h]
    · rw [argCount_cmdRaset hc] at h
      simp [decode, decodeBounds_of_short h, hc.codes.1.symm]
    · simp [argCount_cmdRamwr hc] at h
    · obtain rfl : ps = [] := by simpa using h
      simp [decode, decodeMadctl, hc.codes.2.2.1.symm, hc.codes.2.2.2.2.1.symm, hc.codes.2.2.2.2.2.symm]
  · simp [argCount_unknown hr] at h

/-- Settles O3. -/
theorem decodeReadsExactlyTheCountedParameters : Obligations.DecodeReadsExactlyTheCountedParameters := fun _ hc _ _ =>
  ⟨decode_of_argCount_le hc, decode_of_length_lt hc⟩

/-- Settles O5: every code is compared with this hardware's four, and the bounds are read big-endian. -/
theorem rowWordsDecodeToTheirCommands : Obligations.RowWordsDecodeToTheirCommands := by
  unfold Obligations.RowWordsDecodeToTheirCommands
  decide

/-- Settles O6. -/
theorem halvesAreBigEndian : Obligations.HalvesAreBigEndian :=
  ⟨halfOfBytes_toNat, fun v => ⟨_, _, rfl, halfOfBytes_bytesOfHalf v⟩⟩

/-- Settles O54. -/
theorem chipHasTheSpecsParameters : Obligations.ChipHasTheSpecsParameters :=
  ⟨rfl, rfl, rfl, rfl, rfl, rfl, rfl, rfl, rfl, rfl, rfl, rfl, Config.chip_admitted⟩

end Sys2Proof
end

section
/-! Proofs of the statements about the five commands (spec/41_commands.md), with what an address set does written out and the
frame of each command. -/

namespace Sys2Proof.Machine

open Claims

/-- CASET sets the column axis, or with swap the row axis (R66). -/
theorem addressSet_column (start stop : Half) (s : State) :
    addressSet .column start stop s = if s.swap then withRow s start stop else withColumn s start stop := by
  unfold addressSet
  cases s.swap <;> rfl

/-- RASET sets the row axis, or with swap the column axis (R66). -/
theorem addressSet_row (start stop : Half) (s : State) :
    addressSet .row start stop s = if s.swap then withColumn s start stop else withRow s start stop := by
  unfold addressSet
  cases s.swap <;> rfl

/-- Settles O14. -/
theorem casetAndRasetComplete : Obligations.CasetAndRasetComplete := fun s start stop =>
  ⟨congrArg Host.Outcome.next (addressSet_column start stop s), congrArg Host.Outcome.next (addressSet_row start stop s)⟩

/-- Settles O18, command by command; an address set leaves the axis that swap does not choose. -/
theorem commandsLeaveTheRestUnchanged : Obligations.CommandsLeaveTheRestUnchanged := by
  intro i s t h
  cases i with
  | caset start stop =>
    rw [exec_caset, addressSet_column] at h
    cases hs : s.swap <;> obtain rfl := (by simpa [hs] using h : _ = t) <;> simp [withColumn, withRow, hs]
  | raset start stop =>
    rw [exec_raset, addressSet_row] at h
    cases hs : s.swap <;> obtain rfl := (by simpa [hs] using h : _ = t) <;> simp [withColumn, withRow, hs]
  | ramwr =>
    obtain rfl : _ = t := by simpa using h
    simp
  | madctl a =>
    obtain rfl : _ = t := by simpa using h
    simp
  | unknown code =>
    obtain rfl : _ = t := by simpa using h
    simp

/-- Settles O19, command by command: each reads the orientation and the configuration only. -/
theorem commandsIgnoreParserAndLineState : Obligations.CommandsIgnoreParserAndLineState := by
  intro i s t m b c p f h
  cases i with
  | caset start stop =>
    rw [exec_caset, addressSet_column] at h ⊢
    obtain rfl : _ = t := by simpa using h
    cases hs : s.swap <;> simp [withColumn, withRow, hs]
  | raset start stop =>
    rw [exec_raset, addressSet_row] at h ⊢
    obtain rfl : _ = t := by simpa using h
    cases hs : s.swap <;> simp [withColumn, withRow, hs]
  | ramwr =>
    obtain rfl : _ = t := by simpa using h
    rfl
  | madctl a =>
    obtain rfl : _ = t := by simpa using h
    rfl
  | unknown code =>
    obtain rfl : _ = t := by simpa using h
    rfl

/-- Bytes that agree above bit 4 agree in each flag bit (spec/30_encoding.md R45). -/
theorem getLsbD_eq_of_top_eq {a b : Byte} (h : a >>> 5 = b >>> 5) {i : Nat} (hi : 5 ≤ i) : a.getLsbD i = b.getLsbD i := by
  have hbit : (a >>> 5).getLsbD (i - 5) = (b >>> 5).getLsbD (i - 5) := by rw [h]
  rwa [BitVec.getLsbD_ushiftRight, BitVec.getLsbD_ushiftRight, Nat.add_sub_cancel' hi] at hbit

/-- Settles O16: MADCTL sets the orientation from the flag bits, which lie above bit 4 by R7. -/
theorem madctlSetsTheOrientationFlags : Obligations.MadctlSetsTheOrientationFlags := by
  refine ⟨fun _ _ => rfl, fun s a b hc hab => ?lowBits, fun s a hx hy hw => ?same, fun s a hs => ?chip⟩
  case lowBits =>
    obtain ⟨⟨hx, -⟩, ⟨hy, -⟩, ⟨hw, -⟩, -⟩ := hc.bits
    simp [mirrorXOf, mirrorYOf, swapOf, getLsbD_eq_of_top_eq hab hx, getLsbD_eq_of_top_eq hab hy, getLsbD_eq_of_top_eq hab hw]
  case same => simp [mirrorXOf, mirrorYOf, swapOf, State.setOrientation, ← hx, ← hy, ← hw]
  case chip => simp [mirrorXOf, mirrorYOf, swapOf, State.setOrientation, hs, Config.chip]

theorem execute_of_decode {code : Byte} {args rest : List Byte} {i : Instr} {s : State}
    (h : decode s.config (code :: args) = .ok i rest) : execute code args s = exec i s := by
  simp [execute, h]

/-- What runs without a fault was decoded (R65). -/
theorem execute_cases {code : Byte} {args : List Byte} {s t : State} (h : execute code args s = .next t) :
    ∃ i rest, decode s.config (code :: args) = .ok i rest ∧ exec i s = .next t := by
  unfold execute at h
  split at h
  · next i rest hd => exact ⟨i, rest, hd, h⟩
  · cases h

/-- A code without parameters is run again in the state it leaves: RAMWR changes nothing more, an unknown code reports again. -/
theorem execute_twice {code : Byte} {s t : State} (hn : argCount s.config code = 0) (h : execute code [] s = .next t) :
    execute code [] t =
      .next (if code = s.config.cmdRamwr then t else { t with outputs := t.outputs ++ [.diagUnknownCommand code] }) := by
  rcases decode_of_argCount_eq_zero hn [] with ⟨e, hd⟩ | ⟨hu, hd⟩
  · rw [execute_of_decode hd, exec_ramwr] at h
    obtain rfl : s.setRamWriteActive true = t := by simpa using h
    rw [execute_of_decode (s := s.setRamWriteActive true) hd, exec_ramwr, if_pos e]
    rfl
  · rw [execute_of_decode hd, exec_unknown] at h
    obtain rfl : s.emit (.diagUnknownCommand code) = t := by simpa using h
    have hne : code ≠ s.config.cmdRamwr := fun e => hu (.inr (.inr (.inl e)))
    rw [execute_of_decode (s := s.emit _) hd, exec_unknown, if_neg hne]
    rfl

theorem setOrientation_withColumn (s : State) (start stop : Half) (x y w : Bool) :
    (withColumn s start stop).setOrientation x y w = withColumn (s.setOrientation x y w) start stop := rfl

theorem setOrientation_withRow (s : State) (start stop : Half) (x y w : Bool) :
    (withRow s start stop).setOrientation x y w = withRow (s.setOrientation x y w) start stop := rfl

@[simp] theorem withColumn_config (s : State) (start stop : Half) : (withColumn s start stop).config = s.config := rfl
@[simp] theorem withRow_config (s : State) (start stop : Half) : (withRow s start stop).config = s.config := rfl

/-- Setting one axis is setting the other exactly where both already hold the bounds, whatever the orientation. -/
theorem withRow_setOrientation_eq_withColumn_iff (s : State) (x y w : Bool) (start stop : Half) :
    withRow (s.setOrientation x y w) start stop = withColumn (s.setOrientation x y w) start stop ↔
      s = withColumn s start stop ∧ s = withRow s start stop := by
  simp only [withRow, withColumn, State.ext_iff, State.setOrientation]
  constructor
  · rintro ⟨-, -, -, -, -, -, hcs, hce, hrs, hre, hcc, hcr, -⟩
    simp [hcs, hce, hcc, ← hrs, ← hre, ← hcr]
  · rintro ⟨⟨-, -, -, -, -, -, hcs, hce, -, -, hcc, -⟩, ⟨-, -, -, -, -, -, -, -, hrs, hre, -, hcr, -⟩⟩
    simp [hcs, hce, hcc, hrs, hre, hcr]

/-- MADCTL and CASET in the two orders: swap after MADCTL chooses the axis in one, swap before it in the other. -/
theorem madctl_caset_comm_iff (a : Byte) (start stop : Half) (s : State) :
    andThen (exec (.madctl a) s) (exec (.caset start stop)) = andThen (exec (.caset start stop) s) (exec (.madctl a)) ↔
      swapOf s.config a = s.swap ∨ (s = withColumn s start stop ∧ s = withRow s start stop) := by
  have iff_row := withRow_setOrientation_eq_withColumn_iff s (mirrorXOf s.config a) (mirrorYOf s.config a)
  cases hs : s.swap <;> cases hw : swapOf s.config a
  · simp [addressSet_column, hs, hw, setOrientation_withColumn]
  · simpa [addressSet_column, hs, hw, setOrientation_withColumn] using iff_row true start stop
  · simpa [addressSet_column, hs, hw, setOrientation_withRow, eq_comm (a := withColumn _ _ _)] using iff_row false start stop
  · simp [addressSet_column, hs, hw, setOrientation_withRow]

/-- Settles O20. -/
theorem commandSetLaws : Obligations.CommandSetLaws :=
  ⟨fun _ _ _ => execute_twice, fun _ _ => rfl, madctl_caset_comm_iff⟩

end Sys2Proof.Machine
end

section
/-! Proofs of the statements about the protocol (spec/40_protocol.md): the laws of parameter bytes first, up to the byte that completes a command
and past it, then command bytes read off, then the statements. -/

namespace Sys2Proof.Machine

open Claims

theorem andThen_next_right (o : Result) : andThen o .next = o := by
  cases o <;> rfl

/-! ### Parameter bytes -/

/-- A byte with nothing pending is discarded (R62). -/
theorem paramByte_of_none {s : State} (b : Byte) (h : s.pending = none) : paramByte b s = .next s := by
  simp [paramByte, h]

theorem paramBytes_of_none {s : State} (bs : List Byte) (h : s.pending = none) : paramBytes bs s = .next s := by
  induction bs with
  | nil => rfl
  | cons b bs ih => rw [paramBytes, paramByte_of_none b h, andThen_next, ih]

/-- Any byte that does not reach the count is appended (R61). -/
theorem paramByte_of_ne {s : State} {p : Pending} (b : Byte) (hp : s.pending = some p) (h : p.args.length + 1 ≠ p.expected) :
    paramByte b s = .next (s.setPending (some { p with args := p.args ++ [b] })) := by
  simp [paramByte, hp, h]

/-- The byte that reaches the count executes the command, the accumulator already cleared (R61). -/
theorem paramByte_of_reached {s : State} {p : Pending} (b : Byte) (hp : s.pending = some p)
    (h : p.args.length + 1 = p.expected) : paramByte b s = execute p.code (p.args ++ [b]) (s.setPending none) := by
  simp [paramByte, hp, h]

/-- Exactly the missing parameters execute the command, the accumulator already cleared (R61). -/
theorem paramBytes_of_reached {s : State} {p : Pending} {ps : List Byte} (hp : s.pending = some p) (hps : ps ≠ [])
    (h : p.args.length + ps.length = p.expected) :
    paramBytes ps s = execute p.code (p.args ++ ps) (s.setPending none) := by
  obtain ⟨qs, b, rfl⟩ : ∃ qs b, ps = qs ++ [b] := ⟨_, _, (List.dropLast_append_getLast hps).symm⟩
  have hlen : p.args.length + qs.length + 1 = p.expected := by simpa [Nat.add_assoc] using h
  have hfirst := paramBytes_of_short qs hp (by omega)
  have hlast := paramByte_of_reached (s := s.setPending (some { p with args := p.args ++ qs })) b rfl (by simpa using hlen)
  rw [paramBytes_append, hfirst, andThen_next, paramBytes, hlast, ← List.append_assoc]
  exact andThen_next_right _

theorem execute_pending {code : Byte} {args : List Byte} {s t : State} (h : execute code args s = .next t) :
    t.pending = s.pending := by
  obtain ⟨i, rest, -, hi⟩ := execute_cases h
  exact (exec_keeps hi).2.1

/-- Bytes past the count find nothing pending (R62). -/
theorem paramBytes_of_surplus {s : State} {p : Pending} {ps : List Byte} (rest : List Byte) (hp : s.pending = some p)
    (hps : ps ≠ []) (h : p.args.length + ps.length = p.expected) : paramBytes (ps ++ rest) s = paramBytes ps s := by
  rw [paramBytes_append, paramBytes_of_reached hp hps h]
  cases hx : execute p.code (p.args ++ ps) (s.setPending none) with
  | next t => rw [andThen_next, paramBytes_of_none rest (execute_pending hx)]
  | fault r => rfl
  | refused r => rfl

/-- Everything parameter bytes do when they answer a next state (R61, R62). -/
inductive ParamCase (s t : State) : Prop where
  | kept (h : t = s)
  | extended (p : Pending) (ps : List Byte) (hp : s.pending = some p)
      (h : t = s.setPending (some { p with args := p.args ++ ps }))
  | executed (p : Pending) (args rest : List Byte) (i : Instr) (hp : s.pending = some p)
      (hd : decode s.config (p.code :: args) = .ok i rest) (h : exec i (s.setPending none) = .next t)

theorem paramByte_cases {b : Byte} {s t : State} (h : paramByte b s = .next t) : ParamCase s t := by
  cases hp : s.pending with
  | none => exact .kept (by simpa [paramByte_of_none b hp] using h.symm)
  | some p =>
    by_cases hl : p.args.length + 1 = p.expected
    · rw [paramByte_of_reached b hp hl] at h
      obtain ⟨i, rest, hd, hi⟩ := execute_cases h
      exact .executed p _ rest i hp hd hi
    · exact .extended p [b] hp (by simpa [paramByte_of_ne b hp hl] using h.symm)

theorem paramBytes_cases {bs : List Byte} {s t : State} (h : paramBytes bs s = .next t) : ParamCase s t := by
  induction bs generalizing s with
  | nil => exact .kept (by simpa [paramBytes] using h.symm)
  | cons b bs ih =>
    obtain ⟨u, hu, ht⟩ := andThen_eq_next.1 h
    cases paramByte_cases hu with
    | kept e => exact ih (e ▸ ht)
    | extended p ps hp e =>
      subst e
      cases ih ht with
      | kept e => exact .extended p ps hp e
      | extended q qs hq e =>
        obtain rfl : _ = q := by simpa using hq
        exact .extended p (ps ++ qs) hp (by simpa [State.setPending] using e)
      | executed q args rest i hq hd hi =>
        obtain rfl : _ = q := by simpa using hq
        exact .executed p args rest i hp hd hi
    | executed p args rest i hp hd hi =>
      rw [paramBytes_of_none bs (by simpa using (exec_keeps hi).2.1)] at ht
      obtain rfl : u = t := by simpa using ht
      exact .executed p args rest i hp hd hi

/-- Only the record and the configuration matter to the accumulator's invariant. -/
theorem pendingOk_congr {s t : State} (hp : t.pending = s.pending) (hc : t.config = s.config) (h : s.PendingOk) : t.PendingOk := by
  unfold State.PendingOk
  rw [hp, hc]
  exact h

/-- A code with parameters is an address set or MADCTL: the command it decodes to neither reports nor sets the ram-write flag. -/
theorem decode_of_argCount_pos {c : Config} (hc : c.Admitted) {code : Byte} {args rest : List Byte} {i : Instr}
    (h : decode c (code :: args) = .ok i rest) (hn : 1 ≤ argCount c code) : i ≠ .ramwr ∧ ∀ u, i ≠ .unknown u := by
  rcases decode_cases h with ⟨_, _, _, _, -, rfl⟩ | ⟨_, _, _, _, -, rfl⟩ | ⟨e, -⟩ | ⟨_, -, rfl⟩ | ⟨u, e, hu, -⟩
  · simp
  · simp
  · rw [List.cons_eq_cons.1 e |>.1, argCount_cmdRamwr hc] at hn
    cases hn
  · simp
  · rw [List.cons_eq_cons.1 e |>.1, argCount_unknown hu] at hn
    cases hn

theorem exec_ramWriteActive {i : Instr} {s t : State} (h : exec i s = .next t) (hi : i ≠ .ramwr) :
    t.ramWriteActive = s.ramWriteActive := by
  obtain ⟨-, -, -, -, -, -, -, -, -, hr, -⟩ := commandsLeaveTheRestUnchanged i s t h
  exact hr hi

theorem exec_outputs {i : Instr} {s t : State} (h : exec i s = .next t) (hi : ∀ u, i ≠ .unknown u) :
    t.outputs = s.outputs := by
  obtain ⟨-, -, -, -, -, -, -, -, ho, -⟩ := commandsLeaveTheRestUnchanged i s t h
  exact ho hi

/-- Parameter bytes of a well-formed record leave the ram-write flag: its command takes parameters, so it is not RAMWR. -/
theorem paramBytes_ramWriteActive {bs : List Byte} {s t : State} (hc : s.config.Admitted) (hk : s.PendingOk)
    (h : paramBytes bs s = .next t) : t.ramWriteActive = s.ramWriteActive := by
  cases paramBytes_cases h with
  | kept e => rw [e]
  | extended p ps hp e => rw [e, State.setPending_ramWriteActive]
  | executed p args rest i hp hd hi =>
    obtain ⟨he, hpos, -⟩ := hk p hp
    exact exec_ramWriteActive (s := s.setPending none) hi (decode_of_argCount_pos hc hd (he ▸ hpos)).1

/-- In a well-formed record the byte that reaches the count completes a command of its code. -/
theorem paramByte_executes {s : State} {p : Pending} (b : Byte) (hc : s.config.Admitted) (hk : s.PendingOk)
    (hp : s.pending = some p) (hl : p.args.length + 1 = p.expected) :
    ∃ i t, decode s.config (p.code :: (p.args ++ [b])) = .ok i [] ∧ paramByte b s = exec i (s.setPending none) ∧
      exec i (s.setPending none) = .next t ∧ t.pending = none ∧ t.outputs = s.outputs := by
  obtain ⟨he, hpos, -⟩ := hk p hp
  have hlen : (p.args ++ [b]).length = argCount s.config p.code := by simp [hl, he]
  obtain ⟨i, hd⟩ := decode_of_argCount_le hc (Nat.le_of_eq hlen.symm)
  rw [← hlen, List.drop_length] at hd
  obtain ⟨t, ht⟩ := exec_next i (s.setPending none)
  refine ⟨i, t, hd, ?_, ht, (exec_keeps ht).2.1, exec_outputs (s := s.setPending none) ht (decode_of_argCount_pos hc hd (he ▸ hpos)).2⟩
  rw [paramByte_of_reached b hp hl]
  exact execute_of_decode hd

theorem paramByte_next {s : State} (b : Byte) (hc : s.config.Admitted) (hk : s.PendingOk) : ∃ t, paramByte b s = .next t := by
  cases hp : s.pending with
  | none => exact ⟨s, paramByte_of_none b hp⟩
  | some p =>
    by_cases hl : p.args.length + 1 = p.expected
    · obtain ⟨i, t, -, e, ht, -⟩ := paramByte_executes b hc hk hp hl
      exact ⟨t, e.trans ht⟩
    · exact ⟨_, paramByte_of_ne b hp hl⟩

/-! ### The accumulator's invariant -/

theorem ChunkMove.config {s t : State} (m : ChunkMove s t) : t.config = s.config := by
  cases m with
  | clearRam => rfl
  | dropPending => rfl
  | startCommand => rfl
  | parameter => rfl
  | command i _ _ hw h => exact (exec_keeps h).1
  | sample v => exact (pixelWrite_keeps v s).1

theorem EventMove.config {s t : State} (m : EventMove s t) : t.config = s.config := by
  cases m with
  | chunk m => exact m.config
  | request | stop | mode | selected | resetAsserted | reset | events => rfl

/-- Every update while a chunk is processed keeps the accumulator's invariant: a record starts empty and grows short of its count. -/
theorem ChunkMove.pendingOk {s t : State} (m : ChunkMove s t) (h : s.PendingOk) : t.PendingOk := by
  cases m with
  | clearRam => exact h
  | dropPending => exact fun _ hp => nomatch hp
  | startCommand _ b hb =>
    intro p hp
    obtain rfl : _ = p := by simpa using hp
    exact ⟨rfl, Nat.one_le_iff_ne_zero.2 hb, argCount_le_four _ _, Nat.pos_of_ne_zero hb⟩
  | parameter _ p b hp hl =>
    intro q hq
    obtain rfl : _ = q := by simpa using hq
    obtain ⟨he, hpos, hle, hlt⟩ := h p hp
    refine ⟨he, hpos, hle, ?_⟩
    simp only [List.length_append, List.length_singleton] at hl ⊢
    omega
  | command i _ _ hw hi => exact pendingOk_congr (exec_keeps hi).2.1 (exec_keeps hi).1 h
  | sample v =>
    obtain ⟨hc, -, -, -, hp, -⟩ := pixelWrite_keeps v s
    exact pendingOk_congr hp hc h

theorem EventMove.pendingOk {s t : State} (m : EventMove s t) (h : s.PendingOk) : t.PendingOk := by
  cases m with
  | chunk m => exact m.pendingOk h
  | reset => exact fun _ hp => nomatch hp
  | request | stop | mode | selected | resetAsserted | events => exact h

theorem ChunkMoves.keeps_pendingOk {s t : State} (m : ChunkMoves s t) (h : s.config.Admitted ∧ s.PendingOk) :
    t.config.Admitted ∧ t.PendingOk := by
  induction m with
  | refl => exact h
  | tail _ m ih => exact ⟨m.config ▸ ih.1, m.pendingOk ih.2⟩

theorem paramBytes_next {s : State} (bs : List Byte) (hc : s.config.Admitted) (hk : s.PendingOk) :
    ∃ t, paramBytes bs s = .next t := by
  induction bs generalizing s with
  | nil => exact ⟨s, rfl⟩
  | cons b bs ih =>
    obtain ⟨u, hu⟩ := paramByte_next b hc hk
    obtain ⟨hcu, hku⟩ := (paramByte_moves hu).keeps_pendingOk ⟨hc, hk⟩
    obtain ⟨t, ht⟩ := ih hcu hku
    exact ⟨t, andThen_eq_next.2 ⟨u, hu, ht⟩⟩

/-! ### Command bytes read off -/

/-- The state after command bytes (R56, R57): the flag says whether RAMWR has been among them, or was set before. -/
def afterCommandBytes (bs : List Byte) (s : State) : State :=
  { s with
    ramWriteActive := s.ramWriteActive || decide (s.config.cmdRamwr ∈ bs)
    pending := pendingAfter s.config bs s.pending
    outputs := s.outputs ++ reportsOf s.config bs }

theorem pendingAfter_cons (c : Config) (b : Byte) (bs : List Byte) (q : Option Pending) :
    pendingAfter c bs (pendingAfter c [b] q) = pendingAfter c (b :: bs) q := by
  cases bs with
  | nil => rfl
  | cons d ds => simp [pendingAfter, List.getLast?_cons]

theorem reportsOf_cons (c : Config) (b : Byte) (bs : List Byte) : reportsOf c [b] ++ reportsOf c bs = reportsOf c (b :: bs) := by
  by_cases h : recognised c b <;> simp [reportsOf, h]

theorem afterCommandBytes_cons (b : Byte) (bs : List Byte) (s : State) :
    afterCommandBytes bs (afterCommandBytes [b] s) = afterCommandBytes (b :: bs) s := by
  simp [afterCommandBytes, pendingAfter_cons, ← reportsOf_cons _ b bs, Bool.or_assoc, ← Bool.decide_or]

/-- One command byte, read off: RAMWR sets the flag, an unknown code reports, any other starts its record (R57, R67, R71). -/
theorem commandByte_eq {s : State} (hc : s.config.Admitted) (b : Byte) : commandByte b s = .next (afterCommandBytes [b] s) := by
  by_cases hn : argCount s.config b = 0
  · obtain ⟨i, hd, e⟩ := commandByte_of_argCount_eq_zero hn
    rcases decode_of_argCount_eq_zero hn [] with ⟨rfl, hd'⟩ | ⟨hu, hd'⟩
    · obtain rfl : i = .ramwr := (DecodeResult.ok.inj (hd.symm.trans hd')).1
      simp [e, afterCommandBytes, pendingAfter, reportsOf, recognised, hn, State.setRamWriteActive, State.setPending]
    · obtain rfl : i = .unknown b := (DecodeResult.ok.inj (hd.symm.trans hd')).1
      have hne : s.config.cmdRamwr ≠ b := fun h => hu (.inr (.inr (.inl h.symm)))
      simp [e, afterCommandBytes, pendingAfter, reportsOf, hu, hne, hn, State.emit, State.setPending]
  · have hr : recognised s.config b := by
      by_contra hu
      exact hn (argCount_unknown hu)
    have hne : s.config.cmdRamwr ≠ b := fun h => hn (h ▸ argCount_cmdRamwr hc)
    simp [commandByte_of_argCount_ne_zero hn, afterCommandBytes, pendingAfter, reportsOf, hr, hne, hn, State.setPending]

theorem commandBytes_eq {s : State} (hc : s.config.Admitted) (bs : List Byte) :
    commandBytes bs s = .next (afterCommandBytes bs s) := by
  induction bs generalizing s with
  | nil => simp [commandBytes, afterCommandBytes, pendingAfter, reportsOf]
  | cons b bs ih =>
    rw [commandBytes, commandByte_eq hc, andThen_next, ih (s := afterCommandBytes [b] s) hc, afterCommandBytes_cons]

/-- Settles O22: each byte read off in turn, from the cleared flag. -/
theorem commandChunksAreReadOffTheirBytes : Obligations.CommandChunksAreReadOffTheirBytes := by
  intro s bs hc
  rw [commandChunk, commandBytes_eq (s := s.setRamWriteActive false) hc]
  rfl

/-- An empty data-mode chunk holds neither a parameter nor a sample (R58 to R60). -/
theorem processChunk_nil_of_data {s : State} (h : s.mode = .data) : processChunk [] s = .next s := by
  cases hr : s.ramWriteActive with
  | true => exact processChunk_of_ramWrite [] h hr
  | false => exact processChunk_of_params [] h hr

theorem processChunk_nil_pending {s t : State} (h : processChunk [] s = .next t) : t.pending = s.pending := by
  cases hm : s.mode with
  | command =>
    rw [processChunk_of_command [] hm, commandChunk_nil] at h
    obtain rfl : _ = t := by simpa using h
    rfl
  | data =>
    obtain rfl : s = t := by simpa [processChunk_nil_of_data hm] using h
    rfl

/-- With no bytes in flight a select-line event sets the level and appends effects, and does nothing else (spec/43_lines_and_transport.md R87). -/
theorem selectLineEvent_nil {level : Level} {s t : State} (h : selectLineEvent level [] s = .next t) :
    ∃ outs, t = { s with selected := selectActive s.config level, outputs := s.outputs ++ outs } := by
  unfold selectLineEvent at h
  split at h
  · next hl =>
    obtain rfl : s = t := by simpa using h
    exact ⟨[], by simp [hl]⟩
  · split at h
    · next ha =>
      obtain rfl : _ = t := by simpa using h
      exact ⟨[.requestChunk], by simp [ha, State.emit, State.setSelected]⟩
    · next ha =>
      obtain rfl : _ = t := by simpa [flush] using h
      exact ⟨[.stopTransfer], by simp [ha, State.emit, State.setSelected]⟩

/-- Settles O24: below the count, at the count, and over events without bytes. -/
theorem parameterBytesAccumulate : Obligations.ParameterBytesAccumulate := by
  refine ⟨fun s b => paramByte_of_none b, fun s p b => paramByte_of_ne b, fun s p b hc hk hp hl => ?reached,
    fun s t level h => ?noBytes⟩
  case reached =>
    obtain ⟨i, t, hd, e, ht, hpend, hout⟩ := paramByte_executes b hc hk hp hl
    exact ⟨i, t, hd, e, e.trans ht, hpend, hout⟩
  case noBytes =>
    rcases h with h | h | h | h
    · obtain ⟨outs, rfl⟩ := modeLineEvent_nil h
      rfl
    · obtain ⟨outs, rfl⟩ := selectLineEvent_nil h
      rfl
    · obtain rfl : s = t := by simpa [endOfTransferEvent] using h
      rfl
    · obtain ⟨u, hu, ht⟩ := andThen_eq_next.1 h
      obtain rfl : requestIfSelected u = t := by simpa using ht
      rw [requestIfSelected_pending, processChunk_nil_pending hu]

/-- Settles O25. -/
theorem surplusBytesAreDiscarded : Obligations.SurplusBytesAreDiscarded := by
  refine ⟨fun s bs => paramBytes_of_none bs, fun s p ps rest hk hp hl => paramBytes_of_surplus rest hp ?_ hl⟩
  rintro rfl
  obtain ⟨-, -, -, hlt⟩ := hk p hp
  simp at hl
  omega

/-- Settles O27: short parameters only extend the record, and a command byte overwrites it unread. -/
theorem interruptedCommandsLeaveNoTrace : Obligations.InterruptedCommandsLeaveNoTrace := by
  refine ⟨fun s p ps b hp hl => ⟨paramBytes_of_short ps hp hl, ?_⟩, fun s t level h => ?_⟩
  · rw [paramBytes_of_short ps hp hl, andThen_next, commandByte_setPending]
    exact (commandByte_setPending b s none).symm
  · obtain ⟨outs, rfl⟩ := modeLineEvent_nil h
    rfl

/-! ### Whole commands, byte by byte -/

/-- A command byte and exactly its parameters execute the command (R57, R61). -/
theorem commandByte_paramBytes {s : State} {code : Byte} {ps : List Byte} (hps : ps ≠ [])
    (h : ps.length = argCount s.config code) :
    andThen (commandByte code s) (paramBytes ps) = execute code ps (s.setPending none) := by
  have hn : argCount s.config code ≠ 0 := by
    rw [← h]
    exact fun hl => hps (List.eq_nil_of_length_eq_zero hl)
  rw [commandByte_of_argCount_ne_zero hn, andThen_next]
  exact paramBytes_of_reached (s := s.setPending _) rfl hps (by simpa using h)

/-- Settles O13: the decoder reads the bounds big-endian, and swap chooses the axis. -/
theorem addressSetSetsTheAxisSwapChooses : Obligations.AddressSetSetsTheAxisSwapChooses := by
  intro s p0 p1 p2 p3
  obtain ⟨hcas, hras⟩ := casetAndRasetComplete s (bigEndian p0 p1) (bigEndian p2 p3)
  obtain ⟨hcas', hras'⟩ := casetAndRasetComplete { s with pending := none } (bigEndian p0 p1) (bigEndian p2 p3)
  have dcas := decode_caset (c := s.config) p0 p1 p2 p3 []
  refine ⟨hcas, hras, fun hc => ⟨?casetBytes, ?rasetBytes, ?casetEach, ?rasetEach⟩⟩ <;>
    have dras := decode_raset hc p0 p1 p2 p3 [] <;> simp only [halfOfBytes_eq_bigEndian] at dcas dras
  case casetBytes => exact execute_of_decode dcas
  case rasetBytes => exact execute_of_decode dras
  case casetEach =>
    rw [commandByte_paramBytes (ps := [p0, p1, p2, p3]) (List.cons_ne_nil _ _) (argCount_cmdCaset hc).symm]
    exact (execute_of_decode (s := s.setPending none) dcas).trans hcas'
  case rasetEach =>
    rw [commandByte_paramBytes (ps := [p0, p1, p2, p3]) (List.cons_ne_nil _ _) (argCount_cmdRaset hc).symm]
    exact (execute_of_decode (s := s.setPending none) dras).trans hras'

/-- Settles O17: an unknown code takes no parameters, so its byte executes at once. -/
theorem unknownOnlyReports : Obligations.UnknownOnlyReports := by
  refine ⟨fun _ _ => rfl, fun s code hu => ?_⟩
  obtain ⟨i, hd, e⟩ := commandByte_of_argCount_eq_zero (argCount_unknown hu)
  obtain rfl : i = .unknown code := (DecodeResult.ok.inj (hd.symm.trans (decode_unknown hu []))).1
  exact e

end Sys2Proof.Machine
end

section
/-! Proofs of the statements about whole commands delivered as events (spec/30_encoding.md R51, spec/40_protocol.md): the chunk that completes a
command, a table row's command placed, and a command's pseudo-events. -/

namespace Sys2Proof.Machine

open Claims

theorem andThen_congr {o : Result} {f g : State → Result} (h : ∀ t, o = .next t → f t = g t) : andThen o f = andThen o g := by
  cases o with
  | next t => exact h t rfl
  | fault r => rfl
  | refused r => rfl

/-- A code that is a whole command has no parameters. -/
theorem argCount_eq_zero_of_decode {c : Config} (hc : c.Admitted) {code : Byte} {i : Instr} {rest : List Byte}
    (h : decode c [code] = .ok i rest) : argCount c code = 0 := by
  by_contra hn
  rw [decode_of_length_lt hc (ps := []) (Nat.pos_of_ne_zero hn)] at h
  cases h

/-- A command-mode chunk of one byte that is a whole command executes it (R56, R57). -/
theorem commandChunk_of_decode {s : State} {code : Byte} {i : Instr} (hn : argCount s.config code = 0)
    (hd : decode s.config [code] = .ok i []) :
    commandChunk [code] s = exec i { s with ramWriteActive := false, pending := none } := by
  obtain ⟨j, hj, e⟩ := commandByte_of_argCount_eq_zero (s := s.setRamWriteActive false) hn
  obtain rfl : i = j := (DecodeResult.ok.inj (hd.symm.trans hj)).1
  rw [commandChunk, commandBytes, e]
  exact andThen_next_right _

/-- A command-mode chunk of one byte whose code has parameters starts its record (R56, R57). -/
theorem commandChunk_of_argCount_ne_zero {s : State} {code : Byte} (hn : argCount s.config code ≠ 0) :
    commandChunk [code] s = .next { s with
      ramWriteActive := false, pending := some { code := code, expected := argCount s.config code, args := [] } } := by
  rw [commandChunk, commandBytes, commandByte_of_argCount_ne_zero (s := s.setRamWriteActive false) hn]
  rfl

/-- Parameter bytes that complete a command execute it (R60, R61). -/
theorem paramBytes_of_decode {s : State} {p : Pending} {bs : List Byte} {i : Instr} (hp : s.pending = some p) (hbs : bs ≠ [])
    (hl : (p.args ++ bs).length = p.expected) (hd : decode s.config (p.code :: (p.args ++ bs)) = .ok i []) :
    paramBytes bs s = exec i (s.setPending none) := by
  rw [paramBytes_of_reached hp hbs (by simpa using hl)]
  exact execute_of_decode (s := s.setPending none) hd

/-- Settles O7. -/
theorem stepRunsTheCommandItReads : Obligations.StepRunsTheCommandItReads := by
  refine ⟨fun s code es i hc he hm hd _ => ?commandByte, fun s p bs es i he hm hr hp hbs hl hd _ => ?lastParameters⟩
  case commandByte =>
    rw [step_of_events he, runEvent, chunkEvent, processChunk_of_command (s := s.setEvents es) _ hm,
      commandChunk_of_decode (s := s.setEvents es) (argCount_eq_zero_of_decode hc hd) hd]
    rfl
  case lastParameters =>
    rw [step_of_events he, runEvent, chunkEvent, processChunk_of_params (s := s.setEvents es) _ hm hr,
      paramBytes_of_decode (s := s.setEvents es) hp hbs hl hd]
    rfl

/-! ### A table row's command, placed -/

theorem tableBytes_eq_cons (nbits w : Nat) :
    ∃ ps, tableBytes nbits w = BitVec.ofNat 8 (w % 2 ^ nbits) :: ps ∧ ps.length = 4 := by
  simp [tableBytes, longestCommand, List.range_succ_eq_map]

/-- A decoded command is decoded from its code and counted parameters alone (R44). -/
theorem decode_take {c : Config} (hc : c.Admitted) {code : Byte} {ps rest : List Byte} {i : Instr}
    (h : decode c (code :: ps) = .ok i rest) : decode c (code :: ps.take (argCount c code)) = .ok i [] := by
  rcases decode_cases h with ⟨_, _, _, _, e, rfl⟩ | ⟨_, _, _, _, e, rfl⟩ | ⟨e, rfl⟩ | ⟨_, e, rfl⟩ | ⟨_, e, hu, rfl⟩ <;>
    obtain ⟨rfl, rfl⟩ := List.cons_eq_cons.1 e
  · simp [argCount_cmdCaset hc]
  · simp [argCount_cmdRaset hc, decode_raset hc]
  · simp [argCount_cmdRamwr hc, decode_ramwr hc]
  · simp [decode_madctl hc]
  · simp [argCount_unknown hu, decode_unknown hu]

theorem decodeTableWordWith_eq_some {c : Config} {nbits w : Nat} {i : Instr} (h : decodeTableWordWith c nbits w = some i) :
    ∃ rest, decode c (tableBytes nbits w) = .ok i rest := by
  unfold decodeTableWordWith at h
  split at h
  · next rest hd =>
    obtain rfl := Option.some.inj h
    exact ⟨rest, hd⟩
  · cases h

/-- Settles O8: placed, a command without parameters is a command-mode chunk, any other the last parameters of its record, and the step runs
both. -/
theorem stepRunsThePlacedCommand : Obligations.StepRunsThePlacedCommand := by
  intro s nbits w i hc h
  obtain ⟨rest, hd⟩ := decodeTableWordWith_eq_some h
  obtain ⟨ps, hbytes, hlen⟩ := tableBytes_eq_cons nbits w
  rw [State.withFetchWord, hbytes]
  rw [hbytes] at hd
  generalize (BitVec.ofNat 8 (w % 2 ^ nbits) : Byte) = code at hd ⊢
  have hshort := decode_take hc hd
  have hw := wellFormed_of_decode hd
  obtain ⟨runsCode, runsParams⟩ := stepRunsTheCommandItReads
  by_cases hn : argCount s.config code = 0
  · rw [hn, List.take_zero] at hshort
    rw [placeCommand, if_pos hn, if_pos hn]
    exact runsCode { s with mode := .command, events := .chunk [code] :: s.events } code s.events i hc rfl rfl hshort hw
  · have htake : (ps.take (argCount s.config code)).length = argCount s.config code := by
      have := argCount_le_four s.config code
      rw [List.length_take]
      omega
    have hne : ps.take (argCount s.config code) ≠ [] := fun e => hn (by rw [← htake, e, List.length_nil])
    rw [placeCommand, if_neg hn, if_neg hn]
    exact runsParams { s with
      mode := .data
      ramWriteActive := false
      pending := some { code := code, expected := argCount s.config code, args := [] }
      events := .chunk (ps.take (argCount s.config code)) :: s.events } _ _ s.events i rfl rfl rfl rfl hne htake hshort hw

/-! ### A command's pseudo-events -/

/-- Not selected, a mode-line event without bytes sets the mode and nothing else, whether or not the level changes (R86). -/
theorem modeLineEvent_of_idle {s : State} (level : Level) (hs : s.selected = false) :
    modeLineEvent level [] s = .next (s.setMode (modeOfLevel s.config level)) := by
  unfold modeLineEvent
  by_cases hl : modeOfLevel s.config level = s.mode
  · rw [if_pos hl, if_pos rfl, hl]
    rfl
  · simp [hl, hs]

/-- Not selected, a chunk is processed and nothing is requested (R84, R85). -/
theorem chunkEvent_of_idle {s : State} (bs : List Byte) (hs : s.selected = false) : chunkEvent bs s = processChunk bs s := by
  have nothing : ∀ t, processChunk bs s = .next t → Host.Outcome.next (requestIfSelected t) = (.next t : Result) := by
    intro t ht
    obtain ⟨-, -, hsel, -⟩ := processChunk_lines ht
    simp [requestIfSelected, hsel, hs]
  rw [chunkEvent, andThen_congr nothing]
  exact andThen_next_right _

@[simp] theorem modeOfLevel_data (c : Config) : modeOfLevel c c.modeDataLevel = .data := if_pos rfl
@[simp] theorem modeOfLevel_not_data (c : Config) : modeOfLevel c (!c.modeDataLevel) = .command := by
  simp [modeOfLevel]

/-- A number of steps, over this machine's own types. -/
def runSteps : Nat → State → Result
  | 0, s => .next s
  | k + 1, s => andThen (step s) (runSteps k)

/-- The host's run is that number of steps. -/
theorem core_run_eq_runSteps (k : Nat) (s : State) : (core.run k s : Result) = runSteps k s := by
  induction k generalizing s with
  | zero => rfl
  | succ k ih => exact (core_run_succ k s).trans (congrArg (andThen (step s)) (funext ih))

theorem runSteps_of_next {s t : State} (k : Nat) (h : step s = .next t) : runSteps (k + 1) s = runSteps k t := by
  rw [runSteps, h, andThen_next]

/-- The run over a mode-line event and a chunk, not selected: the chunk processed in the new mode. -/
theorem runSteps_modeLine_chunk {s : State} {level : Level} {bs : List Byte} {es : List Event} (k : Nat) (hs : s.selected = false)
    (he : s.events = .modeLine level [] :: .chunk bs :: es) :
    runSteps (k + 2) s =
      andThen (processChunk bs { s with events := es, mode := modeOfLevel s.config level }) (runSteps k) := by
  have hmode : step s = .next ((s.setEvents (.chunk bs :: es)).setMode (modeOfLevel s.config level)) :=
    (step_of_events he).trans (modeLineEvent_of_idle (s := s.setEvents (.chunk bs :: es)) level hs)
  have hchunk : step ((s.setEvents (.chunk bs :: es)).setMode (modeOfLevel s.config level)) =
      processChunk bs { s with events := es, mode := modeOfLevel s.config level } :=
    (step_of_events (e := .chunk bs) (es := es) rfl).trans
      (chunkEvent_of_idle (s := { s with events := es, mode := modeOfLevel s.config level }) bs hs)
  rw [runSteps_of_next _ hmode, runSteps, hchunk]

/-- The run over a command's code (R51). -/
theorem runSteps_code {s : State} {code : Byte} {es : List Event} (k : Nat) (hs : s.selected = false)
    (he : s.events = Pseudo.modeC s.config [] :: .chunk [code] :: es) :
    runSteps (k + 2) s = andThen (commandChunk [code] { s with events := es, mode := .command }) (runSteps k) := by
  rw [runSteps_modeLine_chunk k hs he, modeOfLevel_not_data, processChunk_of_command _ (by rfl)]

/-- The run over a command's parameters (R51). -/
theorem runSteps_params {s : State} {bs : List Byte} {es : List Event} (k : Nat) (hs : s.selected = false)
    (hr : s.ramWriteActive = false) (he : s.events = Pseudo.modeD s.config [] :: .chunk bs :: es) :
    runSteps (k + 2) s = andThen (paramBytes bs { s with events := es, mode := .data }) (runSteps k) := by
  rw [runSteps_modeLine_chunk k hs he, modeOfLevel_data, processChunk_of_params _ (by rfl) (by exact hr)]

/-- A well-formed command's bytes are its code and the code's counted parameters (spec/30_encoding.md R44, R49). -/
theorem encode_eq_cons {c : Config} (hc : c.Admitted) {i : Instr} (hw : WellFormed c i = true) :
    ∃ code ps, encode c i = code :: ps ∧ ps.length = argCount c code := by
  cases i with
  | caset start stop => exact Laws.EncodeLength.caset start stop c hc hw
  | raset start stop => exact Laws.EncodeLength.raset start stop c hc hw
  | ramwr => exact Laws.EncodeLength.ramwr c hc hw
  | madctl a => exact Laws.EncodeLength.madctl a c hc hw
  | unknown code => exact Laws.EncodeLength.unknown code c hc hw

/-- Settles O9: the bytes of the command decode back to it (O1); its code alone executes it, or starts the record that its parameters complete. -/
theorem pseudoEventsRunTheirCommand : Obligations.PseudoEventsRunTheirCommand := by
  intro i s es hc hw hs he
  obtain ⟨code, ps, henc, hlen⟩ := encode_eq_cons hc hw
  have hd : decode s.config (code :: ps) = .ok i [] := by
    simpa [henc] using decodeOfEncodeIsIdentity s.config hc i [] hw
  rw [Pseudo.instr, henc] at he ⊢
  refine (core_run_eq_runSteps _ s).trans ?_
  cases ps with
  | nil =>
    refine (runSteps_code 0 (es := es) hs he).trans ?_
    rw [commandChunk_of_decode (s := { s with events := es, mode := .command }) hlen.symm hd]
    exact andThen_next_right _
  | cons p ps =>
    have hn : argCount s.config code ≠ 0 := hlen ▸ Nat.succ_ne_zero _
    have hcode := runSteps_code 2 (es := Pseudo.modeD s.config [] :: .chunk (p :: ps) :: es) hs he
    rw [commandChunk_of_argCount_ne_zero (by exact hn), andThen_next] at hcode
    refine hcode.trans ((runSteps_params 0 (bs := p :: ps) (es := es) (by exact hs) (by rfl) (by rfl)).trans ?_)
    rw [paramBytes_of_decode (i := i) (by rfl) (List.cons_ne_nil p ps) (by exact hlen) (by exact hd)]
    exact andThen_next_right _

end Sys2Proof.Machine
end

section
/-! Proofs of the statements about the pixel writer (spec/42_pixel_writer.md): one axis of the advance, the raster order, the offset of a sample,
the conversion, and the samples of a chunk. -/

namespace Sys2Proof.Machine

open Claims

/-! ### The advance -/

theorem axisWraps_eq_true {cur stop : Half} : axisWraps cur stop = true ↔ stop.toNat < cur.toNat + 1 := by
  simp [axisWraps]

theorem axisWraps_eq_false {cur stop : Half} : axisWraps cur stop = false ↔ cur.toNat + 1 ≤ stop.toNat := by
  simp [axisWraps]

/-- Before the end of the window an axis steps by one, untruncated (R79, R80). -/
theorem axisNext_toNat {cur stop : Half} (start : Half) (h : cur.toNat + 1 ≤ stop.toNat) :
    (axisNext cur start stop).toNat = cur.toNat + 1 := by
  have := stop.isLt
  simp only [axisNext, axisWraps_eq_false.2 h, Bool.false_eq_true, if_false, BitVec.toNat_ofNat]
  omega

/-- At the end of the window, or past it, an axis returns to its start (R79). -/
theorem axisNext_of_wraps {cur stop : Half} (start : Half) (h : stop.toNat < cur.toNat + 1) : axisNext cur start stop = start := by
  simp [axisNext, axisWraps_eq_true.2 h]

/-- A coordinate at the start of a window of one place, or of an empty window, stays there. -/
theorem axisNext_start {start stop : Half} (h : stop ≤ start) : axisNext start start stop = start :=
  axisNext_of_wraps start (Nat.lt_succ_of_le h)

/-- In a window that is not empty an axis stays in it. -/
theorem axisNext_mem {cur start stop : Half} (h : start ≤ stop) (hc : start ≤ cur) :
    start ≤ axisNext cur start stop ∧ axisNext cur start stop ≤ stop := by
  rcases Nat.lt_or_ge stop.toNat (cur.toNat + 1) with hw | hw
  · rw [axisNext_of_wraps start hw]
    exact ⟨BitVec.le_refl start, h⟩
  · have hn := axisNext_toNat start hw
    simp only [BitVec.le_def] at hc ⊢
    omega

theorem advance_of_not_swap {s : State} (h : s.swap = false) :
    advance s = s.setCursor (axisNext s.curCol s.colStart s.colEnd)
      (if axisWraps s.curCol s.colEnd then axisNext s.curRow s.rowStart s.rowEnd else s.curRow) := by
  simp [advance, h]

theorem advance_of_swap {s : State} (h : s.swap = true) :
    advance s = s.setCursor (if axisWraps s.curRow s.rowEnd then axisNext s.curCol s.colStart s.colEnd else s.curCol)
      (axisNext s.curRow s.rowStart s.rowEnd) := by
  simp [advance, h]

/-- Each coordinate of the cursor stays or steps along its axis. -/
theorem advance_cursor_cases (s : State) :
    ((advance s).curCol = s.curCol ∨ (advance s).curCol = axisNext s.curCol s.colStart s.colEnd) ∧
    ((advance s).curRow = s.curRow ∨ (advance s).curRow = axisNext s.curRow s.rowStart s.rowEnd) := by
  cases h : s.swap with
  | false =>
    rw [advance_of_not_swap h]
    cases axisWraps s.curCol s.colEnd <;> simp
  | true =>
    rw [advance_of_swap h]
    cases axisWraps s.curRow s.rowEnd <;> simp

/-- Settles O34: the fast axis by `axisNext`, the slow axis by whether the fast one wraps. -/
theorem advanceStepsTheFastAxisFirst : Obligations.AdvanceStepsTheFastAxisFirst := by
  intro s
  refine ⟨_, _, advance_eq_setCursor s, fun hs => ?columnFast, fun hs => ?rowFast, fun hcc hce hrc hre => ?onePixel,
    fun hs hc he => ?emptyColumns, fun hs hr he => ?emptyRows⟩
  case columnFast =>
    rw [advance_of_not_swap hs]
    refine ⟨fun h => ⟨axisNext_toNat _ h, ?_⟩, fun h => ⟨axisNext_of_wraps _ h, fun hr => ?_, fun hr => ?_⟩⟩
    · simp [axisWraps_eq_false.2 h]
    · simpa [axisWraps_eq_true.2 h] using axisNext_toNat _ hr
    · simpa [axisWraps_eq_true.2 h] using axisNext_of_wraps _ hr
  case rowFast =>
    rw [advance_of_swap hs]
    refine ⟨fun h => ⟨axisNext_toNat _ h, ?_⟩, fun h => ⟨axisNext_of_wraps _ h, fun hc => ?_, fun hc => ?_⟩⟩
    · simp [axisWraps_eq_false.2 h]
    · simpa [axisWraps_eq_true.2 h] using axisNext_toNat _ hc
    · simpa [axisWraps_eq_true.2 h] using axisNext_of_wraps _ hc
  case onePixel =>
    have hcol : axisNext s.curCol s.colStart s.colEnd = s.curCol := by rw [hcc, axisNext_start (hce ▸ BitVec.le_refl _)]
    have hrow : axisNext s.curRow s.rowStart s.rowEnd = s.curRow := by rw [hrc, axisNext_start (hre ▸ BitVec.le_refl _)]
    obtain ⟨hc, hr⟩ := advance_cursor_cases s
    rw [hcol, or_self] at hc
    rw [hrow, or_self] at hr
    rw [advance_eq_setCursor, hc, hr]
    rfl
  case emptyColumns =>
    rw [advance_of_not_swap hs, State.setCursor_curCol, hc]
    exact axisNext_start (BitVec.le_of_lt he)
  case emptyRows =>
    rw [advance_of_swap hs, State.setCursor_curRow, hr]
    exact axisNext_start (BitVec.le_of_lt he)

/-- Advancing keeps the cursor in a window that is not empty. -/
theorem cursorInWindow_advance {s : State} (h : CursorInWindow s) : CursorInWindow (advance s) := by
  obtain ⟨hcs, hce, hrs, hre⟩ := h
  have col : s.colStart ≤ (advance s).curCol ∧ (advance s).curCol ≤ s.colEnd := by
    rcases (advance_cursor_cases s).1 with e | e
    · rw [e]; exact ⟨hcs, hce⟩
    · rw [e]; exact axisNext_mem (BitVec.le_trans hcs hce) hcs
  have row : s.rowStart ≤ (advance s).curRow ∧ (advance s).curRow ≤ s.rowEnd := by
    rcases (advance_cursor_cases s).2 with e | e
    · rw [e]; exact ⟨hrs, hre⟩
    · rw [e]; exact axisNext_mem (BitVec.le_trans hrs hre) hrs
  rw [advance_eq_setCursor]
  exact ⟨col.1, col.2, row.1, row.2⟩

theorem pixelWrite_cursor (v : Half) (s : State) :
    (pixelWrite v s).curCol = (advance s).curCol ∧ (pixelWrite v s).curRow = (advance s).curRow := by
  rcases pixelWrite_cases v s with ⟨k, -, e⟩ | ⟨-, e⟩ <;> simp [e]

/-- What samples keep: everything but the cursor, the mark, the surface and the outputs. -/
theorem pixelWrites_keeps (vs : List Half) (s : State) :
    (pixelWrites vs s).config = s.config ∧ (pixelWrites vs s).mode = s.mode ∧ (pixelWrites vs s).selected = s.selected ∧
    (pixelWrites vs s).resetAsserted = s.resetAsserted ∧ (pixelWrites vs s).colStart = s.colStart ∧
    (pixelWrites vs s).colEnd = s.colEnd ∧ (pixelWrites vs s).rowStart = s.rowStart ∧ (pixelWrites vs s).rowEnd = s.rowEnd ∧
    (pixelWrites vs s).mirrorX = s.mirrorX ∧ (pixelWrites vs s).mirrorY = s.mirrorY ∧ (pixelWrites vs s).swap = s.swap ∧
    (pixelWrites vs s).events = s.events := by
  induction vs generalizing s with
  | nil => simp
  | cons v vs ih =>
    have one := pixelWrite_keeps v s
    simp [ih (pixelWrite v s), one]

theorem cursorInWindow_pixelWrite {s : State} (v : Half) (h : CursorInWindow s) : CursorInWindow (pixelWrite v s) := by
  have ha := cursorInWindow_advance h
  rw [advance_eq_setCursor] at ha
  obtain ⟨hcol, hrow⟩ := pixelWrite_cursor v s
  obtain ⟨-, -, -, -, -, -, hcs, hce, hrs, hre, -⟩ := pixelWrite_keeps v s
  unfold CursorInWindow
  rw [hcol, hrow, hcs, hce, hrs, hre]
  exact ha

/-! ### The raster order -/

/-- The number of places from `start` to `stop`, both included. -/
def axisSpan (start stop : Half) : Nat := stop.toNat - start.toNat + 1

/-- The next place on an axis, counted from its start: the next one, or place 0 after the last. -/
theorem axisNext_toNat_of_index {cur start stop : Half} {j : Nat} (h : start ≤ stop) (hc : cur.toNat = start.toNat + j)
    (hj : j < axisSpan start stop) :
    (axisNext cur start stop).toNat = start.toNat + (if j + 1 < axisSpan start stop then j + 1 else 0) := by
  have h' : start.toNat ≤ stop.toNat := h
  unfold axisSpan at hj ⊢
  split
  · rw [axisNext_toNat start (by omega)]
    omega
  · rw [axisNext_of_wraps start (by omega), Nat.add_zero]

theorem axisWraps_of_index {cur start stop : Half} {j : Nat} (h : start ≤ stop) (hc : cur.toNat = start.toNat + j) :
    axisWraps cur stop = true ↔ ¬ j + 1 < axisSpan start stop := by
  have h' : start.toNat ≤ stop.toNat := h
  rw [axisWraps_eq_true, axisSpan]
  omega

theorem mem_of_index {cur start stop : Half} {j : Nat} (h : start ≤ stop) (hc : cur.toNat = start.toNat + j)
    (hj : j < axisSpan start stop) : start ≤ cur ∧ cur ≤ stop := by
  have h' : start.toNat ≤ stop.toNat := h
  unfold axisSpan at hj
  simp only [BitVec.le_def]
  omega

theorem rasterCol_of_not_swap {s : State} (h : s.swap = false) (k : Nat) :
    rasterCol s k = s.colStart.toNat + k % axisSpan s.colStart s.colEnd := by
  simp [rasterCol, axisSpan, h]

theorem rasterRow_of_not_swap {s : State} (h : s.swap = false) (k : Nat) :
    rasterRow s k = s.rowStart.toNat + k / axisSpan s.colStart s.colEnd := by
  simp [rasterRow, axisSpan, h]

theorem rasterCol_of_swap {s : State} (h : s.swap = true) (k : Nat) :
    rasterCol s k = s.colStart.toNat + k / axisSpan s.rowStart s.rowEnd := by
  simp [rasterCol, axisSpan, h]

theorem rasterRow_of_swap {s : State} (h : s.swap = true) (k : Nat) :
    rasterRow s k = s.rowStart.toNat + k % axisSpan s.rowStart s.rowEnd := by
  simp [rasterRow, axisSpan, h]

/-- The window's area, rows first. -/
theorem windowArea_eq_rows_mul_cols (s : State) :
    windowArea s = axisSpan s.rowStart s.rowEnd * axisSpan s.colStart s.colEnd := Nat.mul_comm _ _

/-- The raster index after `k` in rows of `w` places, `n` rows: the place in the row, and the row. -/
theorem raster_succ {w n k : Nat} (hk : k < w * n) :
    (k + 1) % (w * n) % w = (if k % w + 1 < w then k % w + 1 else 0) ∧
    (k + 1) % (w * n) / w = (if k % w + 1 < w then k / w else if k / w + 1 < n then k / w + 1 else 0) := by
  have hw : 0 < w := Nat.pos_of_mul_pos_right (Nat.zero_lt_of_lt hk)
  have hdiv := Nat.div_add_mod k w
  have hrow : k / w < n := Nat.div_lt_of_lt_mul hk
  by_cases hp : k % w + 1 < w
  · have hlt : k + 1 < w * n := by
      have := Nat.mul_le_mul_left w (Nat.succ_le_of_lt hrow)
      rw [Nat.mul_succ] at this
      omega
    rw [if_pos hp, if_pos hp, Nat.mod_eq_of_lt hlt]
    have hk1 : k + 1 = k % w + 1 + w * (k / w) := by omega
    rw [hk1, Nat.add_mul_mod_self_left, Nat.add_mul_div_left _ _ hw, Nat.mod_eq_of_lt hp, Nat.div_eq_of_lt hp, Nat.zero_add]
    exact ⟨rfl, rfl⟩
  · have hend : k + 1 = w * (k / w + 1) := by
      have := Nat.mod_lt k hw
      rw [Nat.mul_succ]
      omega
    rw [if_neg hp, if_neg hp, hend]
    by_cases hn : k / w + 1 < n
    · rw [if_pos hn, Nat.mod_eq_of_lt (Nat.mul_lt_mul_of_pos_left hn hw), Nat.mul_mod_right, Nat.mul_div_cancel_left _ hw]
      exact ⟨rfl, rfl⟩
    · have hlast : k / w + 1 = n := by omega
      rw [if_neg hn, hlast, Nat.mod_self, Nat.zero_mod, Nat.zero_div]
      exact ⟨rfl, rfl⟩

/-- The window is not empty, and the cursor stands at its raster index `k` (R81). -/
structure AtRaster (s : State) (k : Nat) : Prop where
  cols : s.colStart ≤ s.colEnd
  rows : s.rowStart ≤ s.rowEnd
  lt : k < windowArea s
  col : s.curCol.toNat = rasterCol s k
  row : s.curRow.toNat = rasterRow s k

/-- Only the window, the swap flag and the cursor matter to the raster index. -/
theorem AtRaster.congr {s t : State} {k : Nat} (h : AtRaster s k)
    (e : t.colStart = s.colStart ∧ t.colEnd = s.colEnd ∧ t.rowStart = s.rowStart ∧ t.rowEnd = s.rowEnd ∧ t.swap = s.swap ∧
      t.curCol = s.curCol ∧ t.curRow = s.curRow) : AtRaster t k := by
  obtain ⟨hcs, hce, hrs, hre, hw, hcc, hcr⟩ := e
  obtain ⟨cols, rows, lt, col, row⟩ := h
  constructor <;> simpa only [windowArea, rasterCol, rasterRow, hcs, hce, hrs, hre, hw, hcc, hcr]

/-- One axis of `s` fast, the other slow: `k` counts places of the fast axis first. -/
theorem axes_succ {fast slow fs fe ss se : Half} {k : Nat} (hf : fs ≤ fe) (hs : ss ≤ se) (hk : k < axisSpan fs fe * axisSpan ss se)
    (hfast : fast.toNat = fs.toNat + k % axisSpan fs fe) (hslow : slow.toNat = ss.toNat + k / axisSpan fs fe) :
    (axisNext fast fs fe).toNat = fs.toNat + (k + 1) % (axisSpan fs fe * axisSpan ss se) % axisSpan fs fe ∧
    (if axisWraps fast fe then axisNext slow ss se else slow).toNat =
      ss.toNat + (k + 1) % (axisSpan fs fe * axisSpan ss se) / axisSpan fs fe := by
  obtain ⟨hmod, hdiv⟩ := raster_succ hk
  have hplace : k % axisSpan fs fe < axisSpan fs fe := Nat.mod_lt k (Nat.succ_pos _)
  refine ⟨by rw [axisNext_toNat_of_index hf hfast hplace, hmod], ?_⟩
  rw [hdiv]
  by_cases hp : k % axisSpan fs fe + 1 < axisSpan fs fe
  · have hw : axisWraps fast fe = false := Bool.not_eq_true _ ▸ fun h => (axisWraps_of_index hf hfast).1 h hp
    rw [hw, if_pos hp]
    exact hslow
  · rw [if_pos ((axisWraps_of_index hf hfast).2 hp), if_neg hp]
    exact axisNext_toNat_of_index hs hslow (Nat.div_lt_of_lt_mul hk)

theorem AtRaster.advance {s : State} {k : Nat} (h : AtRaster s k) : AtRaster (advance s) ((k + 1) % windowArea s) := by
  obtain ⟨cols, rows, lt, col, row⟩ := h
  have hlt : (k + 1) % windowArea s < windowArea s := Nat.mod_lt _ (Nat.zero_lt_of_lt lt)
  cases hs : s.swap with
  | false =>
    rw [rasterCol_of_not_swap hs] at col
    rw [rasterRow_of_not_swap hs] at row
    obtain ⟨hfast, hslow⟩ := axes_succ cols rows lt col row
    rw [advance_of_not_swap hs]
    exact ⟨cols, rows, hlt, hfast.trans (rasterCol_of_not_swap hs _).symm, hslow.trans (rasterRow_of_not_swap hs _).symm⟩
  | true =>
    rw [rasterCol_of_swap hs] at col
    rw [rasterRow_of_swap hs] at row
    obtain ⟨hfast, hslow⟩ := axes_succ rows cols (windowArea_eq_rows_mul_cols s ▸ lt) row col
    rw [← windowArea_eq_rows_mul_cols] at hfast hslow
    rw [advance_of_swap hs]
    exact ⟨cols, rows, hlt, hslow.trans (rasterCol_of_swap hs _).symm, hfast.trans (rasterRow_of_swap hs _).symm⟩

theorem AtRaster.pixelWrite {s : State} {k : Nat} (v : Half) (h : AtRaster s k) :
    AtRaster (pixelWrite v s) ((k + 1) % windowArea s) := by
  obtain ⟨hcol, hrow⟩ := pixelWrite_cursor v s
  obtain ⟨-, -, -, -, -, -, hcs, hce, hrs, hre, -, -, hw, -⟩ := pixelWrite_keeps v s
  refine h.advance.congr ⟨?_, ?_, ?_, ?_, ?_, hcol, hrow⟩ <;> rw [advance_eq_setCursor]
  · exact hcs
  · exact hce
  · exact hrs
  · exact hre
  · exact hw

theorem windowArea_pixelWrite (v : Half) (s : State) : windowArea (pixelWrite v s) = windowArea s := by
  obtain ⟨-, -, -, -, -, -, hcs, hce, hrs, hre, -⟩ := pixelWrite_keeps v s
  rw [windowArea, windowArea, hcs, hce, hrs, hre]

theorem AtRaster.pixelWrites {s : State} {k : Nat} (vs : List Half) (h : AtRaster s k) :
    AtRaster (pixelWrites vs s) ((k + vs.length) % windowArea s) := by
  induction vs generalizing s k with
  | nil => simpa [Nat.mod_eq_of_lt h.lt] using h
  | cons v vs ih =>
    have hi := ih (h.pixelWrite v)
    rw [windowArea_pixelWrite, Nat.mod_add_mod] at hi
    rwa [pixelWrites_cons, List.length_cons, Nat.add_comm vs.length 1, ← Nat.add_assoc]

/-- A raster index is a position in the window. -/
theorem AtRaster.cursorInWindow {s : State} {k : Nat} (h : AtRaster s k) : CursorInWindow s := by
  obtain ⟨cols, rows, lt, col, row⟩ := h
  cases hs : s.swap with
  | false =>
    rw [rasterCol_of_not_swap hs] at col
    rw [rasterRow_of_not_swap hs] at row
    obtain ⟨hcs, hce⟩ := mem_of_index cols col (Nat.mod_lt k (Nat.succ_pos _))
    obtain ⟨hrs, hre⟩ := mem_of_index rows row (Nat.div_lt_of_lt_mul lt)
    exact ⟨hcs, hce, hrs, hre⟩
  | true =>
    rw [rasterCol_of_swap hs] at col
    rw [rasterRow_of_swap hs] at row
    obtain ⟨hcs, hce⟩ := mem_of_index cols col (Nat.div_lt_of_lt_mul (windowArea_eq_rows_mul_cols s ▸ lt))
    obtain ⟨hrs, hre⟩ := mem_of_index rows row (Nat.mod_lt k (Nat.succ_pos _))
    exact ⟨hcs, hce, hrs, hre⟩

/-- Settles O38, by induction on the samples: each moves the cursor to the next raster index. -/
theorem rasterLaw : Obligations.RasterLaw := by
  intro s k0 vs hcols hrows hk hcol hrow
  have h := (AtRaster.mk hcols hrows hk hcol hrow).pixelWrites vs
  obtain ⟨-, -, -, -, hcs, hce, hrs, hre, -, -, hw, -⟩ := pixelWrites_keeps vs s
  have hc := h.col
  have hr := h.row
  simp only [rasterCol, rasterRow, hcs, hce, hrs, hre, hw] at hc hr
  exact ⟨hc, hr, h.cursorInWindow⟩

end Sys2Proof.Machine
end

section
/-! Proofs of the statements about one sample and the samples of a chunk (spec/42_pixel_writer.md, spec/40_protocol.md R59): where a sample goes,
its conversion, the orientation table, and the framing of a chunk. -/

namespace Sys2Proof.Machine

open Claims

/-! ### Where a sample goes -/

theorem surfaceOffset_of_inside {c : Config} {x y : Nat} (hx : x < c.width) (hy : y < c.height) :
    surfaceOffset c x y = some ((y * c.width + x) * 4) := by
  simp [surfaceOffset, hx, hy]

/-- A coordinate below the size stays in it, mirrored or not (R75). -/
theorem mirrored_mem {size : Nat} {c : Half} (mirror : Bool) (h : c.toNat < size) :
    0 ≤ mirrored mirror size c ∧ mirrored mirror size c < size := by
  cases mirror <;> simp [mirrored] <;> omega

/-- A cursor within the surface has an offset there, whatever the orientation. -/
theorem sinkOffset_of_cursor {s : State} (hc : s.curCol.toNat < s.config.width) (hr : s.curRow.toNat < s.config.height) :
    ∃ k, sinkOffset s = some k := by
  have hx := mirrored_mem (if s.swap then s.mirrorX else s.mirrorY) hc
  have hy := mirrored_mem (if s.swap then s.mirrorY else s.mirrorX) hr
  exact ⟨_, if_pos ⟨hx.1, hx.2, hy.1, hy.2⟩⟩

theorem writeSample_of_some {s : State} {k : Nat} (smp : Half) (h : sinkOffset s = some k) :
    writeSample smp s = s.writePixel k (rgba32OfRgb565 smp) := by
  simp [writeSample, h]

theorem writeSample_of_none {s : State} (smp : Half) (h : sinkOffset s = none) :
    writeSample smp s = s.markFault (.outOfSurface (sinkX s) (sinkY s)) := by
  simp [writeSample, h]

/-- Settles O35. -/
theorem samplesInsideTheSurfaceAreWritten : Obligations.SamplesInsideTheSurfaceAreWritten := by
  intro s smp x y hx hy hxw hyh
  have hk : surfaceOffset s.config x y = some ((y * s.config.width + x) * 4) := surfaceOffset_of_inside hxw hyh
  have hs : sinkOffset s = some ((y * s.config.width + x) * 4) := by rw [sinkOffset, hx, hy, hk]
  exact ⟨congrArg advance (writeSample_of_some smp hs), surfaceOffset_aligned hk⟩

/-- Settles O36: no offset outside the surface, and a cursor within the surface has one. -/
theorem samplesOutsideTheSurfaceMarkTheFault : Obligations.SamplesOutsideTheSurfaceMarkTheFault := by
  refine fun s smp => ⟨fun hout => ⟨?marks, ?cursor⟩, pixelWrite_cursor smp s⟩ <;>
    have hn : sinkOffset s = none := surfaceOffset_eq_none.2 hout
  case marks =>
    rw [pixelWrite, writeSample_of_none smp hn]
    cases hf : s.fault <;> simp [State.markFault, hf]
  case cursor =>
    by_contra hin
    push Not at hin
    obtain ⟨k, hk⟩ := sinkOffset_of_cursor hin.1 hin.2
    rw [hn] at hk
    cases hk

/-- Settles O37. -/
theorem samplesWriteTheirFourBytesOnly : Obligations.SamplesWriteTheirFourBytesOnly := by
  intro s smp
  refine ⟨fun k hk => ?written, fun hn => ?outside, pixelWrite_keeps smp s⟩
  case written =>
    rw [pixelWrite, advance_writeSample, writeSample_of_some smp hk]
    exact ⟨Memory.read_writeWord_inside _ _ k _, Memory.read_writeWord_outside _ _ k _, rfl⟩
  case outside =>
    rw [pixelWrite, advance_writeSample, writeSample_of_none smp hn]
    exact ⟨fun _ => rfl, rfl⟩

/-- A sample of a cursor in a window within the surface is one write, and no fault is marked. -/
theorem pixelWrite_of_inside {s : State} (v : Half) (hw : CursorInWindow s) (hc : s.colEnd.toNat < s.config.width)
    (hr : s.rowEnd.toNat < s.config.height) :
    ∃ k, sinkOffset s = some k ∧ (pixelWrite v s).outputs = s.outputs ++ [.writePixel k (rgba32OfRgb565 v)] ∧
      (pixelWrite v s).fault = s.fault := by
  obtain ⟨-, hce, -, hre⟩ := hw
  obtain ⟨k, hk⟩ := sinkOffset_of_cursor (Nat.lt_of_le_of_lt hce hc) (Nat.lt_of_le_of_lt hre hr)
  refine ⟨k, hk, ?_⟩
  rw [pixelWrite, advance_writeSample, writeSample_of_some v hk]
  exact ⟨rfl, rfl⟩

/-- Settles O39, by induction on the samples: each is written at the offset of its cursor, which stays in the window. -/
theorem windowsInsideTheSurfaceNeverFault : Obligations.WindowsInsideTheSurfaceNeverFault := by
  intro s vs
  induction vs generalizing s with
  | nil => exact fun _ _ _ => ⟨rfl, [], (List.append_nil _).symm, rfl, fun _ _ h => nomatch h⟩
  | cons v vs ih =>
    intro hw hc hr
    obtain ⟨k, hk, hout, hfault⟩ := pixelWrite_of_inside v hw hc hr
    obtain ⟨hcfg, -, -, -, -, -, -, hce, -, hre, -⟩ := pixelWrite_keeps v s
    obtain ⟨hf, ws, hws, hlen, hnth⟩ := ih (pixelWrite v s) (cursorInWindow_pixelWrite v hw) (by rwa [hce, hcfg])
      (by rwa [hre, hcfg])
    refine ⟨hf.trans hfault, .writePixel k (rgba32OfRgb565 v) :: ws, ?_, by simp [hlen], fun i smp hi => ?_⟩
    · rw [pixelWrites_cons, hws, hout, List.append_assoc]
      rfl
    · cases i with
      | zero =>
        obtain rfl : v = smp := by simpa using hi
        exact ⟨k, hk, rfl⟩
      | succ i => exact hnth i smp hi

/-! ### The conversion -/

/-- The converted word bit by bit (R76): the alpha byte, then each field at the top of its byte, and zeros. -/
theorem getLsbD_rgba32OfRgb565 (smp : Half) {i : Nat} (hi : i < 32) :
    (rgba32OfRgb565 smp).getLsbD i =
      if 24 ≤ i then true
      else if 19 ≤ i then smp.getLsbD (i - 8)
      else if 16 ≤ i then false
      else if 10 ≤ i then smp.getLsbD (i - 5)
      else if 8 ≤ i then false
      else if 3 ≤ i then smp.getLsbD (i - 3)
      else false := by
  unfold rgba32OfRgb565
  interval_cases i <;> simp

theorem extractLsb'_eq_of_bits {v : Word} {lo n : Nat} {u : BitVec n} (h : ∀ i < n, v.getLsbD (lo + i) = u.getLsbD i) :
    v.extractLsb' lo n = u := by
  apply BitVec.eq_of_getLsbD_eq
  intro i hi
  simp [hi, h i hi]

/-- Settles O33, bit by bit: each range of bits lies in one row of the word. -/
theorem colourConversionIsAPlainShift : Obligations.ColourConversionIsAPlainShift := by
  refine ⟨fun smp => ⟨?alpha, ?red, ?redLow, ?green, ?greenLow, ?blue, ?blueLow⟩, by decide, by decide⟩ <;>
    refine extractLsb'_eq_of_bits fun i hi => (getLsbD_rgba32OfRgb565 smp (by omega)).trans ?_
  case alpha =>
    rw [if_pos (by omega)]
    interval_cases i <;> rfl
  case red =>
    rw [if_neg (by omega), if_pos (by omega), show 19 + i - 8 = 11 + i by omega]
    simp [hi]
  case redLow =>
    rw [if_neg (by omega), if_neg (by omega), if_pos (by omega)]
    simp
  case green =>
    rw [if_neg (by omega), if_neg (by omega), if_neg (by omega), if_pos (by omega), show 10 + i - 5 = 5 + i by omega]
    simp [hi]
  case greenLow =>
    rw [if_neg (by omega), if_neg (by omega), if_neg (by omega), if_neg (by omega), if_pos (by omega)]
    simp
  case blue =>
    rw [if_neg (by omega), if_neg (by omega), if_neg (by omega), if_neg (by omega), if_neg (by omega), if_pos (by omega),
      Nat.add_sub_cancel_left]
    simp [hi]
  case blueLow =>
    rw [if_neg (by omega), if_neg (by omega), if_neg (by omega), if_neg (by omega), if_neg (by omega), if_neg (by omega)]
    simp

/-! ### The transform table -/

theorem getLsbD_flag {b : Bool} {i j : Nat} (hj : j < 8) :
    ((if b then 1 <<< i else 0 : Nat) : Byte).getLsbD j = (b && decide (i = j)) := by
  rw [BitVec.natCast_eq_ofNat, BitVec.getLsbD_ofNat, decide_eq_true hj, Bool.true_and]
  cases b <;> simp [Nat.one_shiftLeft, Nat.testBit_two_pow]

/-- The byte in which exactly the bits of three flags are set holds them at their bits (R82). -/
theorem getLsbD_flags {x y w : Bool} {i j k : Nat} (hi : i < 8) (hj : j < 8) (hk : k < 8) (hij : i ≠ j) (hik : i ≠ k) (hjk : j ≠ k) :
    let a : Byte := (if x then 1 <<< i else 0) ||| (if y then 1 <<< j else 0) ||| (if w then 1 <<< k else 0)
    a.getLsbD i = x ∧ a.getLsbD j = y ∧ a.getLsbD k = w := by
  simp only [BitVec.getLsbD_or, getLsbD_flag hi, getLsbD_flag hj, getLsbD_flag hk]
  simp [hij, hik, hjk, hij.symm, hik.symm, hjk.symm]

theorem axisNext_eq_add_one {cur stop : Half} (start : Half) (h : cur < stop) : axisNext cur start stop = cur + 1 := by
  have hn : cur.toNat + 1 ≤ stop.toNat := h
  have hlt := stop.isLt
  apply BitVec.eq_of_toNat_eq
  rw [axisNext_toNat start hn, BitVec.toNat_add]
  exact (Nat.mod_eq_of_lt (Nat.lt_of_le_of_lt hn hlt)).symm

/-- With swap clear the column is the fast axis, with swap set the row (R79, R82). -/
theorem isFastAxis_of_swap (s : State) : IsFastAxis (if s.swap then .row else .column) s := by
  cases hs : s.swap with
  | false =>
    intro h
    rw [advance_of_not_swap hs, axisWraps_eq_false.2 h, axisNext_eq_add_one s.colStart h]
    rfl
  | true =>
    intro h
    rw [advance_of_swap hs, axisWraps_eq_false.2 h, axisNext_eq_add_one s.rowStart h]
    rfl

/-- Settles O32: the byte sets exactly the row's flags, and `mirrored` gives each row's coordinates. -/
theorem transformTableRows : Obligations.TransformTableRows := by
  intro s x y w a hc
  obtain ⟨⟨-, hx⟩, ⟨-, hy⟩, ⟨-, hw⟩, hxy, hxw, hyw⟩ := hc.bits
  obtain ⟨ax, ay, aw⟩ := getLsbD_flags (x := x) (y := y) (w := w) (Nat.lt_succ_of_le hx) (Nat.lt_succ_of_le hy)
    (Nat.lt_succ_of_le hw) hxy hxw hyw
  have hexec : exec (.madctl a) s = .next (s.setOrientation x y w) := by
    rw [exec_madctl, mirrorXOf, mirrorYOf, swapOf, ax, ay, aw]
  refine ⟨s.setOrientation x y w, hexec, rfl, rfl, rfl, ?_, ?_, isFastAxis_of_swap (s.setOrientation x y w)⟩
  · cases x <;> cases y <;> cases w <;> rfl
  · cases x <;> cases y <;> cases w <;> rfl

/-! ### The samples of a chunk -/

theorem samplesOf_length : ∀ bs : List Byte, (samplesOf bs).length = bs.length / 2
  | [] => rfl
  | [_] => by simp [samplesOf]
  | h :: l :: bs => by simp [samplesOf, samplesOf_length bs]; omega

/-- The i-th sample is read from the i-th pair of bytes (R59). -/
theorem samplesOf_getElem : ∀ (bs : List Byte) (i : Nat) (h l : Byte), bs[2 * i]? = some h → bs[2 * i + 1]? = some l →
    (samplesOf bs)[i]? = some (halfOfBytes h l)
  | [], _, _, _, hh, _ => by simp at hh
  | [_], 0, _, _, _, hl => by simp at hl
  | [_], _ + 1, _, _, hh, _ => by simp [Nat.mul_succ] at hh
  | a :: b :: bs, 0, h, l, hh, hl => by
    obtain rfl : a = h := by simpa using hh
    obtain rfl : b = l := by simpa using hl
    rfl
  | _ :: _ :: bs, i + 1, h, l, hh, hl => samplesOf_getElem bs i h l hh hl

/-- Settles O28. -/
theorem pixelChunksAreFramedInPairs : Obligations.PixelChunksAreFramedInPairs := by
  refine ⟨fun _ _ => rfl, fun _ => rfl, fun s vs i v hi => ?oneByOne, fun s bs es he hm hr => ?delivered, samplesOf_length,
    fun bs i h l hh hl => ?pairs, fun s bs b hl => ?oddByte, fun s bs => ?keeps⟩
  case oneByOne =>
    rw [List.take_add_one, hi, pixelWrites_append]
    rfl
  case delivered =>
    rw [step_of_events he, runEvent, chunkEvent, processChunk_of_ramWrite (s := s.setEvents es) bs hm hr]
    rfl
  case pairs =>
    rw [← halfOfBytes_eq_bigEndian]
    exact samplesOf_getElem bs i h l hh hl
  case oddByte =>
    rw [pixelChunk, pixelChunk, samplesOf_append bs [b] hl]
    exact congrArg (pixelWrites · s) (List.append_nil _)
  case keeps =>
    obtain ⟨-, -, -, -, hcs, hce, hrs, hre, -⟩ := pixelWrites_keeps (samplesOf bs) s
    exact ⟨pixelWrites_pending _ s, hcs, hce, hrs, hre⟩

end Sys2Proof.Machine
end

section
/-! Proofs of the statements about events and effects (spec/43_lines_and_transport.md): each line's event as an equation, which events have a move,
what an event emits, and the line statements read off the equations. -/

namespace Sys2Proof.Machine

open Claims

/-! ### Each event as an equation -/

/-- A mode-line transition while selected: the stop, the flush under the old mode, the new mode and one request (R86). -/
theorem modeLineEvent_of_selected {s : State} {level : Level} (bs : List Byte) (hl : modeOfLevel s.config level ≠ s.mode)
    (hs : s.selected = true) :
    modeLineEvent level bs s = andThen (flush bs (s.emit .stopTransfer))
      (fun t => .next ((t.setMode (modeOfLevel s.config level)).emit .requestChunk)) := by
  rw [modeLineEvent, if_neg hl, if_pos hs]
  refine andThen_congr fun t ht => ?_
  obtain ⟨-, -, hsel, -⟩ := flush_lines ht
  rw [requestIfSelected_of_selected (by simpa [hs] using hsel)]

/-- Selecting requests the first chunk (R87). -/
theorem selectLineEvent_of_selecting {s : State} {level : Level} (hl : selectActive s.config level = true)
    (hs : s.selected = false) : selectLineEvent level [] s = .next ((s.setSelected true).emit .requestChunk) := by
  simp [selectLineEvent, hl, hs]

/-- Deselecting stops, flushes, and ends the pull loop (R87). -/
theorem selectLineEvent_of_deselecting {s : State} {level : Level} (bs : List Byte) (hl : selectActive s.config level = false)
    (hs : s.selected = true) :
    selectLineEvent level bs s = andThen (flush bs (s.emit .stopTransfer)) (fun t => .next (t.setSelected false)) := by
  simp [selectLineEvent, hl, hs]

/-- Settles O10. -/
theorem noEventNoChange : Obligations.NoEventNoChange := by
  intro s h
  rw [step, runNextEvent, h]

/-- Settles O41. -/
theorem modeLineTransition : Obligations.ModeLineTransition := by
  intro s level es
  refine ⟨fun bs hl hbs he => ?same, fun hl hs he => ?idle, fun hl hs he => ?noBytes, fun b bs hl hs he => ?flushed⟩ <;>
    rw [step_of_events he, runEvent]
  case same => simp [modeLineEvent, hl, hbs, State.setEvents]
  case idle => exact modeLineEvent_of_idle (s := s.setEvents es) level hs
  case noBytes =>
    rw [modeLineEvent_of_selected (s := s.setEvents es) [] hl hs]
    simp [flush, State.setEvents, State.setMode, State.emit]
  case flushed => exact modeLineEvent_of_selected (s := s.setEvents es) (b :: bs) hl hs

/-- Settles O42. -/
theorem selectLineTransition : Obligations.SelectLineTransition := by
  intro s level es
  refine ⟨fun hl he => ?same, fun hl hs he => ?selecting, fun hl hs he => ?noBytes, fun b bs hl hs he => ?flushed⟩ <;>
    rw [step_of_events he, runEvent]
  case same => simp [selectLineEvent, hl, State.setEvents]
  case selecting => exact selectLineEvent_of_selecting (s := s.setEvents es) hl hs
  case noBytes => exact selectLineEvent_of_deselecting (s := s.setEvents es) [] hl hs
  case flushed => exact selectLineEvent_of_deselecting (s := s.setEvents es) (b :: bs) hl hs

/-- Settles O43. -/
theorem resetLineTransition : Obligations.ResetLineTransition := by
  intro s level es he
  rw [step_of_events he, runEvent, resetLineEvent]
  refine ⟨fun hl hr => ?_, fun hl hr => ?_, fun hl => ?_⟩
  · simp [resetActive, hl, hr, State.setEvents, State.setResetAsserted, State.resetRegisters]
  · simp [resetActive, hl, hr, State.setEvents]
  · simp [resetActive, hl, State.setEvents, State.setResetAsserted]

/-- Settles O45. -/
theorem powerOnState : Obligations.PowerOnState := by
  refine ⟨fun c => ⟨rfl, rfl, rfl, rfl, rfl, rfl, rfl, fun _ => rfl, fun hc => ?_⟩, rfl⟩
  obtain ⟨⟨hpos, hle⟩, -⟩ := hc
  exact Nat.mod_eq_of_lt (by omega)

/-! ### Which events have a move -/

theorem execute_ne_refused (code : Byte) (args : List Byte) (s : State) (r : Refusal) : execute code args s ≠ .refused r := by
  unfold execute
  split
  · exact exec_ne_refused _ s r
  · simp

theorem commandByte_ne_refused (b : Byte) (s : State) (r : Refusal) : commandByte b s ≠ .refused r := by
  obtain ⟨t, ht⟩ := commandByte_next b s
  simp [ht]

theorem commandBytes_ne_refused (bs : List Byte) (s : State) (r : Refusal) : commandBytes bs s ≠ .refused r := by
  induction bs generalizing s with
  | nil => simp [commandBytes]
  | cons b bs ih =>
    intro h
    rcases andThen_eq_refused.1 h with h | ⟨t, -, h⟩
    · exact commandByte_ne_refused b s r h
    · exact ih t h

theorem paramByte_ne_refused (b : Byte) (s : State) (r : Refusal) : paramByte b s ≠ .refused r := by
  unfold paramByte
  split
  · simp
  · split
    · exact execute_ne_refused _ _ _ r
    · simp

theorem paramBytes_ne_refused (bs : List Byte) (s : State) (r : Refusal) : paramBytes bs s ≠ .refused r := by
  induction bs generalizing s with
  | nil => simp [paramBytes]
  | cons b bs ih =>
    intro h
    rcases andThen_eq_refused.1 h with h | ⟨t, -, h⟩
    · exact paramByte_ne_refused b s r h
    · exact ih t h

/-- Bytes are never refused: only the lines refuse (R91). -/
theorem processChunk_ne_refused (bs : List Byte) (s : State) (r : Refusal) : processChunk bs s ≠ .refused r := by
  cases hm : s.mode with
  | command =>
    rw [processChunk_of_command bs hm]
    exact commandBytes_ne_refused bs _ r
  | data =>
    cases hr : s.ramWriteActive with
    | true => simp [processChunk_of_ramWrite bs hm hr]
    | false =>
      rw [processChunk_of_params bs hm hr]
      exact paramBytes_ne_refused bs s r

/-- From a well-formed record every chunk completes. -/
theorem processChunk_next {s : State} (bs : List Byte) (hc : s.config.Admitted) (hk : s.PendingOk) :
    ∃ t, processChunk bs s = .next t := by
  cases hm : s.mode with
  | command =>
    rw [processChunk_of_command bs hm]
    exact ⟨_, commandBytes_eq (s := s.setRamWriteActive false) hc bs⟩
  | data =>
    cases hr : s.ramWriteActive with
    | true => exact ⟨_, processChunk_of_ramWrite bs hm hr⟩
    | false =>
      rw [processChunk_of_params bs hm hr]
      exact paramBytes_next bs hc hk

/-- What an event may process before it completes: nothing, or its bytes, from a state with the accumulator of `s`. -/
def ProcessesFrom (s : State) (o : Result) : Prop :=
  ∃ u, u.config = s.config ∧ u.pending = s.pending ∧ (o = .next u ∨ ∃ bs, o = processChunk bs u)

theorem processesFrom_flush (bs : List Byte) (s : State) : ProcessesFrom s (flush bs (s.emit .stopTransfer)) := by
  refine ⟨s.emit .stopTransfer, rfl, rfl, ?_⟩
  cases bs with
  | nil => exact .inl rfl
  | cons b bs => exact .inr ⟨b :: bs, rfl⟩

theorem processesFrom_next {s t : State} (hc : t.config = s.config) (hp : t.pending = s.pending) :
    ProcessesFrom s (.next t) := ⟨t, hc, hp, .inl rfl⟩

theorem resetLineEvent_next (level : Level) (s : State) : ∃ t, resetLineEvent level s = .next t := by
  unfold resetLineEvent
  split
  · split
    · exact ⟨_, rfl⟩
    · exact ⟨_, rfl⟩
  · exact ⟨_, rfl⟩

/-- An event that keeps the host's duties is processing followed by updates that always complete (R83, R91). -/
theorem runEvent_of_not_breaks {e : Event} {s : State} (h : ¬ BreaksHostDuty e s) :
    ∃ (o : Result) (f : State → State), ProcessesFrom s o ∧ runEvent e s = andThen o (fun t => .next (f t)) := by
  cases e with
  | chunk bs => exact ⟨processChunk bs s, requestIfSelected, ⟨s, rfl, rfl, .inr ⟨bs, rfl⟩⟩, rfl⟩
  | modeLine level bs =>
    simp only [BreaksHostDuty, not_and_or, not_not, not_or, Bool.not_eq_false] at h
    rcases h with rfl | ⟨hl, hs⟩
    · by_cases hl : modeOfLevel s.config level = s.mode
      · exact ⟨_, id, processesFrom_next rfl rfl, by rw [runEvent, modeLineEvent, if_pos hl, if_pos rfl]; rfl⟩
      · cases hs : s.selected with
        | false => exact ⟨_, id, processesFrom_next (t := s.setMode (modeOfLevel s.config level)) rfl rfl,
            modeLineEvent_of_idle level hs⟩
        | true => exact ⟨_, _, processesFrom_flush [] s, modeLineEvent_of_selected [] hl hs⟩
    · exact ⟨_, _, processesFrom_flush bs s, modeLineEvent_of_selected bs hl hs⟩
  | selectLine level bs =>
    simp only [BreaksHostDuty, not_and_or, not_not, not_or, Bool.not_eq_true] at h
    rcases h with rfl | ⟨hl, ha⟩
    · by_cases hl : selectActive s.config level = s.selected
      · exact ⟨_, id, processesFrom_next rfl rfl, by rw [runEvent, selectLineEvent, if_pos hl, if_pos rfl]; rfl⟩
      · cases hs : s.selected with
        | false =>
          rw [hs, Bool.not_eq_false] at hl
          exact ⟨_, id, processesFrom_next (t := (s.setSelected true).emit .requestChunk) rfl rfl,
            selectLineEvent_of_selecting hl hs⟩
        | true =>
          rw [hs, Bool.not_eq_true] at hl
          exact ⟨_, _, processesFrom_flush [] s, selectLineEvent_of_deselecting [] hl hs⟩
    · rw [ha, eq_comm, Bool.not_eq_false] at hl
      exact ⟨_, _, processesFrom_flush bs s, selectLineEvent_of_deselecting bs ha hl⟩
  | resetLine level =>
    obtain ⟨t, ht⟩ := resetLineEvent_next level s
    exact ⟨.next s, fun _ => t, processesFrom_next rfl rfl, ht⟩
  | endOfTransfer => exact ⟨.next s, id, processesFrom_next rfl rfl, rfl⟩

theorem ProcessesFrom.ne_refused {s : State} {o : Result} (h : ProcessesFrom s o) (r : Refusal) : o ≠ .refused r := by
  obtain ⟨u, -, -, rfl | ⟨bs, rfl⟩⟩ := h
  · simp
  · exact processChunk_ne_refused bs u r

theorem ProcessesFrom.next {s : State} {o : Result} (h : ProcessesFrom s o) (hc : s.config.Admitted) (hk : s.PendingOk) :
    ∃ t, o = .next t := by
  obtain ⟨u, huc, hup, rfl | ⟨bs, rfl⟩⟩ := h
  · exact ⟨u, rfl⟩
  · exact processChunk_next bs (huc ▸ hc) (pendingOk_congr hup huc hk)

/-- An event that breaks a host duty has no move, under one of two names (R91 items 3 and 4). -/
theorem runEvent_of_breaks {e : Event} {s : State} (h : BreaksHostDuty e s) :
    runEvent e s = .refused .repeatedLevelWithInflight ∨ runEvent e s = .refused .inflightWithoutTransfer := by
  cases e with
  | modeLine level bs =>
    obtain ⟨hbs, hd⟩ := h
    by_cases hl : modeOfLevel s.config level = s.mode
    · exact .inl (by rw [runEvent, modeLineEvent, if_pos hl, if_neg hbs])
    · exact .inr (by simp [runEvent, modeLineEvent, hl, hbs, hd.resolve_left hl])
  | selectLine level bs =>
    obtain ⟨hbs, hd⟩ := h
    by_cases hl : selectActive s.config level = s.selected
    · exact .inl (by rw [runEvent, selectLineEvent, if_pos hl, if_neg hbs])
    · exact .inr (by rw [runEvent, selectLineEvent, if_neg hl, if_pos (hd.resolve_left hl), if_neg hbs])
  | chunk bs => exact h.elim
  | resetLine level => exact h.elim
  | endOfTransfer => exact h.elim

theorem runEvent_refused {e : Event} {s : State} {r : Refusal} (h : runEvent e s = .refused r) : BreaksHostDuty e s := by
  by_contra hb
  obtain ⟨o, f, ho, e⟩ := runEvent_of_not_breaks hb
  rw [e] at h
  rcases andThen_eq_refused.1 h with h | ⟨t, -, h⟩
  · exact ho.ne_refused r h
  · cases h

theorem breaksHostDuty_setEvents {e : Event} {s : State} {es : List Event} :
    BreaksHostDuty e (s.setEvents es) ↔ BreaksHostDuty e s := by
  cases e <;> rfl

/-- A refused step took an event that breaks a duty. -/
theorem step_refused {s : State} {r : Refusal} (h : step s = .refused r) :
    ∃ e es, s.events = e :: es ∧ BreaksHostDuty e s ∧ runEvent e (s.setEvents es) = .refused r := by
  cases he : s.events with
  | nil =>
    rw [noEventNoChange s he] at h
    cases h
  | cons e es =>
    rw [step_of_events he] at h
    exact ⟨e, es, rfl, breaksHostDuty_setEvents.1 (runEvent_refused h), h⟩

/-- Settles O12. -/
theorem dutyBreakingEventsHaveNoMove : Obligations.DutyBreakingEventsHaveNoMove := by
  refine fun s => ⟨⟨fun ⟨r, h⟩ => ?_, fun ⟨e, es, he, hb⟩ => ?_⟩, fun r h => ?_⟩
  · obtain ⟨e, es, he, hb, -⟩ := step_refused h
    exact ⟨e, es, he, hb⟩
  · rw [step_of_events he]
    rcases runEvent_of_breaks (breaksHostDuty_setEvents.2 hb) with h | h
    · exact ⟨_, h⟩
    · exact ⟨_, h⟩
  · obtain ⟨e, es, -, hb, hr⟩ := step_refused h
    rcases runEvent_of_breaks (breaksHostDuty_setEvents.2 hb) with h | h <;> rw [h] at hr <;>
      obtain rfl := Host.Outcome.refused.inj hr
    · exact .inl rfl
    · exact .inr rfl

theorem runEvent_next {e : Event} {s : State} (hc : s.config.Admitted) (hk : s.PendingOk) (hb : ¬ BreaksHostDuty e s) :
    ∃ t, runEvent e s = .next t := by
  obtain ⟨o, f, ho, e⟩ := runEvent_of_not_breaks hb
  obtain ⟨t, rfl⟩ := ho.next hc hk
  exact ⟨f t, e⟩

theorem runEvent_ne_fault {e : Event} {s : State} (hc : s.config.Admitted) (hk : s.PendingOk) (r : Fault) :
    runEvent e s ≠ .fault r := by
  by_cases hb : BreaksHostDuty e s
  · rcases runEvent_of_breaks hb with h | h <;> simp [h]
  · obtain ⟨t, ht⟩ := runEvent_next hc hk hb
    simp [ht]

/-- Settles O11: from a well-formed record bytes complete, so an event stops only by a refusal; and every update keeps the record well formed. -/
theorem everyEventHasAStep : Obligations.EveryEventHasAStep := by
  intro s hc hk
  have keeps : ∀ t, step s = .next t → t.PendingOk := fun t h => step_keeps EventMove.pendingOk h hk
  cases he : s.events with
  | nil =>
    have h := noEventNoChange s he
    exact ⟨fun r => by simp [h], fun _ => ⟨s, h, hk⟩⟩
  | cons e es =>
    refine ⟨fun r => step_of_events he ▸ runEvent_ne_fault (s := s.setEvents es) hc hk r, fun hd => ?_⟩
    have hb : ¬ BreaksHostDuty e (s.setEvents es) := fun hb => hd e es rfl (breaksHostDuty_setEvents.1 hb)
    obtain ⟨t, ht⟩ := runEvent_next (s := s.setEvents es) hc hk hb
    exact ⟨t, (step_of_events he).trans ht, keeps t ((step_of_events he).trans ht)⟩

end Sys2Proof.Machine
end

section
/-! Proofs of the statements about effects, the mark and the configuration (spec/43_lines_and_transport.md R84, R90, spec/10_state.md R18, R21):
what one update appends, then a chunk, then an event. -/

namespace Sys2Proof.Machine

open Claims

/-! ### What is emitted -/

/-- Every converted word is opaque (spec/42_pixel_writer.md R76). -/
theorem rgba32OfRgb565_alpha (smp : Half) : rgba32OfRgb565 smp >>> 24 = 0xFF := by
  apply BitVec.eq_of_getLsbD_eq
  intro i hi
  rw [BitVec.getLsbD_ushiftRight]
  by_cases hlow : i < 8
  · rw [getLsbD_rgba32OfRgb565 smp (by omega), if_pos (by omega)]
    interval_cases i <;> rfl
  · rw [BitVec.getLsbD_of_ge _ _ (by omega)]
    interval_cases i <;> rfl

/-- An effect that processing bytes may emit: no request and no stop, those are the lines' (R84 to R87). -/
def ByteOutput (c : Config) (o : Output) : Prop := o.Ok c ∧ o ≠ .requestChunk ∧ o ≠ .stopTransfer

theorem exec_appends {i : Instr} {s t : State} (hw : WellFormed s.config i = true) (h : exec i s = .next t) :
    ∃ outs, t.outputs = s.outputs ++ outs ∧ ∀ o ∈ outs, ByteOutput s.config o := by
  by_cases hu : ∃ code, i = .unknown code
  · obtain ⟨code, rfl⟩ := hu
    obtain rfl : _ = t := by simpa using h
    have hr : ¬ recognised s.config code := of_decide_eq_true hw
    exact ⟨[.diagUnknownCommand code], rfl, by simpa [ByteOutput, Output.Ok] using hr⟩
  · push Not at hu
    exact ⟨[], by rw [exec_outputs h hu, List.append_nil], by simp⟩

theorem pixelWrite_appends (v : Half) (s : State) :
    ∃ outs, (pixelWrite v s).outputs = s.outputs ++ outs ∧ ∀ o ∈ outs, ByteOutput s.config o := by
  rcases pixelWrite_cases v s with ⟨k, hk, e⟩ | ⟨-, e⟩ <;> rw [e]
  · obtain ⟨halign, hlt⟩ := surfaceOffset_aligned hk
    refine ⟨[.writePixel k (rgba32OfRgb565 v)], rfl, ?_⟩
    simpa [ByteOutput, Output.Ok, rgba32OfRgb565_alpha] using ⟨halign, by omega⟩
  · exact ⟨[], (List.append_nil _).symm, by simp⟩

/-- Every update while a chunk is processed appends such effects, if any. -/
theorem ChunkMove.appends {s t : State} (m : ChunkMove s t) :
    ∃ outs, t.outputs = s.outputs ++ outs ∧ ∀ o ∈ outs, ByteOutput s.config o := by
  cases m with
  | clearRam | dropPending | startCommand | parameter => exact ⟨[], (List.append_nil _).symm, by simp⟩
  | command i _ _ hw h => exact exec_appends hw h
  | sample v => exact pixelWrite_appends v s

theorem processChunk_appends {bs : List Byte} {s t : State} (h : processChunk bs s = .next t) :
    ∃ outs, t.outputs = s.outputs ++ outs ∧ ∀ o ∈ outs, ByteOutput s.config o := by
  have both := processChunk_keeps (P := fun u => u.config = s.config ∧ ∃ outs, u.outputs = s.outputs ++ outs ∧
    ∀ o ∈ outs, ByteOutput s.config o) (fun {u v} m => ?_) h ⟨rfl, [], (List.append_nil _).symm, by simp⟩
  · exact both.2
  · rintro ⟨hc, outs, ho, hok⟩
    obtain ⟨more, hm, hmok⟩ := m.appends
    refine ⟨m.config.trans hc, outs ++ more, by rw [hm, ho, List.append_assoc], fun o hmem => ?_⟩
    rcases List.mem_append.1 hmem with hmem | hmem
    · exact hok o hmem
    · exact hc ▸ hmok o hmem

theorem flush_appends {bs : List Byte} {s t : State} (h : flush bs s = .next t) :
    ∃ outs, t.outputs = s.outputs ++ outs ∧ ∀ o ∈ outs, ByteOutput s.config o := by
  cases bs with
  | nil =>
    obtain rfl : s = t := by simpa [flush] using h
    exact ⟨[], (List.append_nil _).symm, by simp⟩
  | cons b bs => exact processChunk_appends h

theorem count_requestChunk_eq_zero {c : Config} {outs : List Output} (h : ∀ o ∈ outs, ByteOutput c o) :
    outs.count .requestChunk = 0 :=
  List.count_eq_zero.2 fun hmem => (h _ hmem).2.1 rfl

/-- The effects of a step: all of them effects the block may emit, at most one of them a request. -/
def StepOutputs (c : Config) (outs : List Output) : Prop := (∀ o ∈ outs, o.Ok c) ∧ outs.count .requestChunk ≤ 1

/-- The effects of processed bytes between at most a stop before them and at most a request after them. -/
theorem stepOutputs_of_bytes {c : Config} {outs before after : List Output} (h : ∀ o ∈ outs, ByteOutput c o)
    (hb : before = [] ∨ before = [.stopTransfer]) (ha : after = [] ∨ after = [.requestChunk]) :
    StepOutputs c (before ++ outs ++ after) := by
  have hok : ∀ o ∈ outs, o.Ok c := fun o hmem => (h o hmem).1
  have hcount := count_requestChunk_eq_zero h
  rcases hb with rfl | rfl <;> rcases ha with rfl | rfl <;>
    simpa [StepOutputs, or_imp, forall_and, Output.Ok, List.count_cons, hcount] using hok

theorem stepOutputs_nil (c : Config) : StepOutputs c [] := ⟨by simp, by simp⟩

/-- Every event appends its effects, at most one of them a request (R84 to R87). -/
theorem EventCase.appends {s t : State} {e : Event} (h : EventCase s e t) :
    ∃ outs, t.outputs = s.outputs ++ outs ∧ StepOutputs s.config outs := by
  cases h with
  | chunk bs u he h ht =>
    obtain ⟨outs, ho, hok⟩ := processChunk_appends h
    rw [ht]
    rcases requestIfSelected_cases u with ⟨-, e⟩ | ⟨-, e⟩
    · exact ⟨[] ++ outs ++ [.requestChunk], by simp [e, ho], stepOutputs_of_bytes hok (.inl rfl) (.inr rfl)⟩
    · exact ⟨[] ++ outs ++ [], by simp [e, ho], stepOutputs_of_bytes hok (.inl rfl) (.inl rfl)⟩
  | modeFlush l bs u he hl hs h ht =>
    obtain ⟨outs, ho, hok⟩ := flush_appends h
    exact ⟨[.stopTransfer] ++ outs ++ [.requestChunk], by simp [ht, ho], stepOutputs_of_bytes hok (.inr rfl) (.inr rfl)⟩
  | selectOff l bs u he hl hs h ht =>
    obtain ⟨outs, ho, hok⟩ := flush_appends h
    exact ⟨[.stopTransfer] ++ outs ++ [], by simp [ht, ho], stepOutputs_of_bytes hok (.inr rfl) (.inl rfl)⟩
  | selectOn l he hl hs ht => exact ⟨[] ++ [] ++ [.requestChunk], by simp [ht], stepOutputs_of_bytes (by simp) (.inl rfl) (.inr rfl)⟩
  | modeSame l he hl ht | modeIdle l he hl hs ht | selectSame l he hl ht | resetOn l he hl hs ht | resetHeld l he hl hs ht
  | resetOff l he hl ht | endOfTransfer he ht => exact ⟨[], by simp [ht], stepOutputs_nil _⟩

theorem step_appends {s t : State} (h : step s = .next t) : ∃ outs, t.outputs = s.outputs ++ outs ∧ StepOutputs s.config outs := by
  cases he : s.events with
  | nil =>
    obtain rfl : s = t := by simpa [noEventNoChange s he] using h
    exact ⟨[], (List.append_nil _).symm, stepOutputs_nil _⟩
  | cons e es => exact (step_cases he h).appends

/-- Settles O21: the routes by mode and flag, and what no chunk touches. -/
theorem chunksAreRoutedByModeAndRamWriteFlag : Obligations.ChunksAreRoutedByModeAndRamWriteFlag := by
  refine fun s bs => ⟨processChunk_of_command bs, processChunk_of_ramWrite bs, processChunk_of_params bs,
    pixelWrites_pending _ s, pixelWrites_ramWriteActive _ s, paramBytes_of_none bs, fun t h => ⟨?mode, ?effects⟩,
    fun t hc hk h => paramBytes_ramWriteActive hc hk h⟩
  case mode =>
    obtain ⟨-, hm, -⟩ := processChunk_lines h
    exact hm
  case effects =>
    obtain ⟨outs, ho, hok⟩ := processChunk_appends h
    exact ⟨outs, ho, fun hmem => (hok _ hmem).2.1 rfl, fun hmem => (hok _ hmem).2.2 rfl⟩

/-- Settles O40. -/
theorem pullLoopRequestsOncePerEvent : Obligations.PullLoopRequestsOncePerEvent := by
  refine ⟨fun s t bs es he h => ?chunk, fun s t h => ?once, fun s hm => ?emptyCommand, fun s => processChunk_nil_of_data⟩
  case chunk =>
    rw [step_of_events he] at h
    obtain ⟨u, hu, ht⟩ := andThen_eq_next.1 h
    obtain rfl : requestIfSelected u = t := by simpa using ht
    obtain ⟨-, -, hsel, -⟩ := processChunk_lines hu
    exact ⟨u, hu, congrArg (fun b : Bool => if b then u.emit .requestChunk else u) hsel⟩
  case once =>
    obtain ⟨outs, ho, -, hcount⟩ := step_appends h
    exact ⟨outs, ho, hcount⟩
  case emptyCommand =>
    rw [processChunk_of_command [] hm]
    exact commandChunk_nil s

/-- Settles O52: effects are appended, and in a selected transition the stop is emitted before anything else. -/
theorem outputsOnlyGrow : Obligations.OutputsOnlyGrow := by
  refine ⟨fun s t h => ?_, fun s t level bs es he hs hl h => ?_⟩
  · obtain ⟨outs, ho, -⟩ := step_appends h
    exact ⟨outs, ho.symm⟩
  · rw [step_of_events he, runEvent, modeLineEvent_of_selected (s := s.setEvents es) bs hl hs] at h
    obtain ⟨u, hu, ht⟩ := andThen_eq_next.1 h
    obtain rfl := Host.Outcome.next.inj ht
    obtain ⟨outs, ho, -⟩ := flush_appends hu
    exact ⟨outs ++ [.requestChunk], by simp [ho]⟩

/-! ### The mark and the configuration -/

/-- Every update keeps a mark that is set (R93). -/
theorem ChunkMove.fault {s t : State} {r : FaultMark} (m : ChunkMove s t) (h : s.fault = some r) : t.fault = some r := by
  cases m with
  | clearRam | dropPending | startCommand | parameter => exact h
  | command i _ _ hw hi =>
    obtain ⟨-, -, -, -, -, -, hf, -⟩ := exec_keeps hi
    rw [hf, h]
  | sample v => rcases pixelWrite_cases v s with ⟨k, -, e⟩ | ⟨-, e⟩ <;> simp [e, h]

theorem EventMove.fault {s t : State} {r : FaultMark} (m : EventMove s t) (h : s.fault = some r) : t.fault = some r := by
  cases m with
  | chunk m => exact m.fault h
  | request | stop | mode | selected | resetAsserted | reset | events => exact h

/-- Settles O51. -/
theorem faultMarkIsSticky : Obligations.FaultMarkIsSticky :=
  ⟨fun _ _ _ hf h => step_keeps EventMove.fault h hf, fun _ => rfl⟩

theorem step_config {s t : State} (h : step s = .next t) : t.config = s.config :=
  step_keeps (P := fun u => u.config = s.config) (fun m hu => m.config.trans hu) h rfl

theorem runSteps_config {n : Nat} {s t : State} (h : runSteps n s = .next t) : t.config = s.config := by
  induction n generalizing s with
  | zero =>
    obtain rfl := Host.Outcome.next.inj h
    rfl
  | succ n ih =>
    obtain ⟨u, hu, ht⟩ := andThen_eq_next.1 h
    exact (ih ht).trans (step_config hu)

/-- Settles O53. -/
theorem configurationIsNeverWritten : Obligations.ConfigurationIsNeverWritten :=
  ⟨fun _ _ => step_config, fun _ _ _ h => (exec_keeps h).1,
    fun n s _ h => runSteps_config ((core_run_eq_runSteps n s).symm.trans h), fun _ => rfl⟩

end Sys2Proof.Machine
end

section
/-! Proofs of the statements that compare two runs: with other bytes in the surface, and with the same bytes in other chunks. One relation carries
both: a run from a state and a run from that state with other surface bytes and other effects emitted do the same, update by update. -/

namespace Sys2Proof.Machine

open Claims

/-! ### Two runs side by side -/

theorem replayOutputs_append (o : ByteOrder) (as bs : List Output) (m : Memory) :
    replayOutputs o (as ++ bs) m = replayOutputs o bs (replayOutputs o as m) := by
  induction as generalizing m with
  | nil => rfl
  | cons a as ih => cases a <;> exact ih _

/-- `t` has come from `s`, and `t'` in the same way from `s` with the bytes `m` and the effects `os`: both have emitted the same, each surface holds
what that left there, and nothing else differs. -/
def Twins (s : State) (m : Memory) (os : List Output) (t t' : State) : Prop :=
  ∃ new, t.outputs = s.outputs ++ new ∧ t.surface = replayOutputs t.config.surfaceByteOrder new s.surface ∧
    t' = { t with surface := replayOutputs t.config.surfaceByteOrder new m, outputs := os ++ new }

/-- Two answers: twin states, or the same stop. -/
inductive TwinResults (s : State) (m : Memory) (os : List Output) : Result → Result → Prop where
  | next {t t' : State} (h : Twins s m os t t') : TwinResults s m os (.next t) (.next t')
  | fault (r : Fault) : TwinResults s m os (.fault r) (.fault r)
  | refused (r : Refusal) : TwinResults s m os (.refused r) (.refused r)

section
variable {s t t' : State} {m : Memory} {os : List Output}

theorem twins_start (s : State) (m : Memory) (os : List Output) : Twins s m os s { s with surface := m, outputs := os } :=
  ⟨[], (List.append_nil _).symm, rfl, by simp [replayOutputs]⟩

/-- Twins agree on every register. -/
theorem Twins.registers (h : Twins s m os t t') :
    t'.config = t.config ∧ t'.mode = t.mode ∧ t'.selected = t.selected ∧ t'.resetAsserted = t.resetAsserted ∧
    t'.pending = t.pending ∧ t'.ramWriteActive = t.ramWriteActive ∧ t'.events = t.events ∧ sinkOffset t' = sinkOffset t ∧
    sinkX t' = sinkX t ∧ sinkY t' = sinkY t := by
  obtain ⟨new, -, -, rfl⟩ := h
  exact ⟨rfl, rfl, rfl, rfl, rfl, rfl, rfl, rfl, rfl, rfl⟩

/-- An update that neither reads nor writes the surface and the effects keeps twins. -/
theorem Twins.update {g : State → State} (h : Twins s m os t t')
    (hg : ∀ u m os, g { u with surface := m, outputs := os } = { g u with surface := m, outputs := os })
    (hc : (g t).config = t.config) : Twins s m os (g t) (g t') := by
  obtain ⟨new, ho, hs, rfl⟩ := h
  have hself : g t = { g t with surface := t.surface, outputs := t.outputs } := hg t t.surface t.outputs
  exact ⟨new, (congrArg State.outputs hself).trans ho, (congrArg State.surface hself).trans (hc ▸ hs), hc ▸ hg t _ _⟩

theorem Twins.setPending (h : Twins s m os t t') (p : Option Pending) : Twins s m os (t.setPending p) (t'.setPending p) :=
  h.update (g := (·.setPending p)) (fun _ _ _ => rfl) rfl

theorem Twins.setRamWriteActive (h : Twins s m os t t') (b : Bool) :
    Twins s m os (t.setRamWriteActive b) (t'.setRamWriteActive b) :=
  h.update (g := (·.setRamWriteActive b)) (fun _ _ _ => rfl) rfl

theorem Twins.setMode (h : Twins s m os t t') (x : Mode) : Twins s m os (t.setMode x) (t'.setMode x) :=
  h.update (g := (·.setMode x)) (fun _ _ _ => rfl) rfl

theorem Twins.setSelected (h : Twins s m os t t') (b : Bool) : Twins s m os (t.setSelected b) (t'.setSelected b) :=
  h.update (g := (·.setSelected b)) (fun _ _ _ => rfl) rfl

theorem Twins.setResetAsserted (h : Twins s m os t t') (b : Bool) :
    Twins s m os (t.setResetAsserted b) (t'.setResetAsserted b) :=
  h.update (g := (·.setResetAsserted b)) (fun _ _ _ => rfl) rfl

theorem Twins.resetRegisters (h : Twins s m os t t') : Twins s m os t.resetRegisters t'.resetRegisters :=
  h.update (g := State.resetRegisters) (fun _ _ _ => rfl) rfl

theorem Twins.setEvents (h : Twins s m os t t') (es : List Event) : Twins s m os (t.setEvents es) (t'.setEvents es) :=
  h.update (g := (·.setEvents es)) (fun _ _ _ => rfl) rfl

/-- Twins emit the same effect, and a write leaves its bytes in each surface. -/
theorem Twins.append (h : Twins s m os t t') (o : Output) :
    Twins s m os
      { t with outputs := t.outputs ++ [o], surface := replayOutputs t.config.surfaceByteOrder [o] t.surface }
      { t' with outputs := t'.outputs ++ [o], surface := replayOutputs t'.config.surfaceByteOrder [o] t'.surface } := by
  obtain ⟨new, ho, hs, rfl⟩ := h
  exact ⟨new ++ [o], by simp [ho], by simp [hs, replayOutputs_append], by simp [replayOutputs_append]⟩

theorem Twins.request (h : Twins s m os t t') : Twins s m os (t.emit .requestChunk) (t'.emit .requestChunk) :=
  h.append .requestChunk

theorem Twins.stop (h : Twins s m os t t') : Twins s m os (t.emit .stopTransfer) (t'.emit .stopTransfer) :=
  h.append .stopTransfer

theorem TwinResults.andThen {o o' : Result} {f f' : State → Result} (h : TwinResults s m os o o')
    (hf : ∀ t t', Twins s m os t t' → TwinResults s m os (f t) (f' t')) :
    TwinResults s m os (andThen o f) (andThen o' f') := by
  cases h with
  | next h => exact hf _ _ h
  | fault r => exact .fault r
  | refused r => exact .refused r

/-! ### Every part of a step keeps twins -/

theorem addressSet_twins (nominal : Axis) (a b : Half) (h : Twins s m os t t') :
    Twins s m os (addressSet nominal a b t) (addressSet nominal a b t') := by
  refine h.update (g := addressSet nominal a b) (fun u _ _ => ?_) ?_
  · cases nominal <;> cases hs : u.swap <;> simp [addressSet, otherAxis, hs, State.setColWindow, State.setRowWindow]
  · rcases addressSet_cases nominal a b t with e | e <;> rw [e] <;> rfl

theorem exec_twins (i : Instr) (h : Twins s m os t t') : TwinResults s m os (exec i t) (exec i t') := by
  have hc : t'.config = t.config := h.registers.1
  cases i with
  | caset a b => exact .next (addressSet_twins .column a b h)
  | raset a b => exact .next (addressSet_twins .row a b h)
  | ramwr => exact .next (h.setRamWriteActive true)
  | madctl a =>
    rw [exec_madctl, exec_madctl, hc]
    exact .next (h.update (g := (·.setOrientation _ _ _)) (fun _ _ _ => rfl) rfl)
  | unknown code => exact .next (h.append (.diagUnknownCommand code))

theorem execute_twins (code : Byte) (args : List Byte) (h : Twins s m os t t') :
    TwinResults s m os (execute code args t) (execute code args t') := by
  have hc : t'.config = t.config := h.registers.1
  unfold execute
  rw [hc]
  split
  · exact exec_twins _ h
  · exact .fault _

theorem commandByte_twins (b : Byte) (h : Twins s m os t t') : TwinResults s m os (commandByte b t) (commandByte b t') := by
  have hc : t'.config = t.config := h.registers.1
  unfold commandByte
  rw [hc]
  split
  · exact execute_twins b [] (h.setPending none)
  · exact .next (h.setPending _)

theorem commandBytes_twins (bs : List Byte) (h : Twins s m os t t') :
    TwinResults s m os (commandBytes bs t) (commandBytes bs t') := by
  induction bs generalizing t t' with
  | nil => exact .next h
  | cons b bs ih => exact (commandByte_twins b h).andThen fun _ _ => ih

theorem paramByte_twins (b : Byte) (h : Twins s m os t t') : TwinResults s m os (paramByte b t) (paramByte b t') := by
  obtain ⟨-, -, -, -, hp, -⟩ := h.registers
  unfold paramByte
  rw [hp]
  split
  · exact .next h
  · split
    · exact execute_twins _ _ (h.setPending none)
    · exact .next (h.setPending _)

theorem paramBytes_twins (bs : List Byte) (h : Twins s m os t t') :
    TwinResults s m os (paramBytes bs t) (paramBytes bs t') := by
  induction bs generalizing t t' with
  | nil => exact .next h
  | cons b bs ih => exact (paramByte_twins b h).andThen fun _ _ => ih

theorem advance_twins (h : Twins s m os t t') : Twins s m os (advance t) (advance t') := by
  refine h.update (fun u _ _ => ?_) (by rw [advance_eq_setCursor]; rfl)
  cases hs : u.swap <;> simp [advance, hs, State.setCursor]

theorem writeSample_twins (v : Half) (h : Twins s m os t t') : Twins s m os (writeSample v t) (writeSample v t') := by
  obtain ⟨-, -, -, -, -, -, -, hk, hx, hy⟩ := h.registers
  cases ho : sinkOffset t with
  | some k =>
    rw [writeSample_of_some v ho, writeSample_of_some v (hk.trans ho)]
    exact h.append (.writePixel k _)
  | none =>
    rw [writeSample_of_none v ho, writeSample_of_none v (hk.trans ho), hx, hy]
    exact h.update (g := (·.markFault _)) (fun _ _ _ => rfl) rfl

theorem pixelWrites_twins (vs : List Half) (h : Twins s m os t t') : Twins s m os (pixelWrites vs t) (pixelWrites vs t') := by
  induction vs generalizing t t' with
  | nil => exact h
  | cons v vs ih => exact ih (advance_twins (writeSample_twins v h))

theorem processChunk_twins (bs : List Byte) (h : Twins s m os t t') :
    TwinResults s m os (processChunk bs t) (processChunk bs t') := by
  obtain ⟨-, hm, -, -, -, hr, -⟩ := h.registers
  unfold processChunk
  rw [hm]
  split
  · exact commandBytes_twins bs (h.setRamWriteActive false)
  · unfold dataChunk
    rw [hr]
    split
    · exact .next (pixelWrites_twins _ h)
    · exact paramBytes_twins bs h

theorem flush_twins (bs : List Byte) (h : Twins s m os t t') : TwinResults s m os (flush bs t) (flush bs t') := by
  cases bs with
  | nil => exact .next h
  | cons b bs => exact processChunk_twins (b :: bs) h

theorem requestIfSelected_twins (h : Twins s m os t t') : Twins s m os (requestIfSelected t) (requestIfSelected t') := by
  obtain ⟨-, -, hs, -⟩ := h.registers
  unfold requestIfSelected
  rw [hs]
  split
  · exact h.request
  · exact h

theorem runEvent_twins (e : Event) (h : Twins s m os t t') : TwinResults s m os (runEvent e t) (runEvent e t') := by
  obtain ⟨hc, hm, hs, hr, -⟩ := h.registers
  cases e with
  | chunk bs => exact (processChunk_twins bs h).andThen fun _ _ hu => .next (requestIfSelected_twins hu)
  | modeLine level bs =>
    simp only [runEvent, modeLineEvent]
    rw [hc, hm, hs]
    split
    · split
      · exact .next h
      · exact .refused _
    · split
      · exact (flush_twins bs h.stop).andThen fun _ _ hu => .next (requestIfSelected_twins (hu.setMode _))
      · split
        · exact .next (h.setMode _)
        · exact .refused _
  | selectLine level bs =>
    simp only [runEvent, selectLineEvent]
    rw [hc, hs]
    split
    · split
      · exact .next h
      · exact .refused _
    · split
      · split
        · exact .next (h.setSelected true).request
        · exact .refused _
      · exact (flush_twins bs h.stop).andThen fun _ _ hu => .next (hu.setSelected false)
  | resetLine level =>
    simp only [runEvent, resetLineEvent]
    rw [hc, hr]
    split
    · split
      · exact .next h
      · exact .next (h.setResetAsserted true).resetRegisters
    · exact .next (h.setResetAsserted false)
  | endOfTransfer => exact .next h

theorem step_twins_of_twins (h : Twins s m os t t') : TwinResults s m os (step t) (step t') := by
  obtain ⟨-, -, -, -, -, -, hev, -⟩ := h.registers
  cases he : t.events with
  | nil =>
    rw [noEventNoChange t he, noEventNoChange t' (hev.trans he)]
    exact .next h
  | cons e es =>
    rw [step_of_events he, step_of_events (hev.trans he)]
    exact runEvent_twins e (h.setEvents es)

theorem TwinResults.of_next {o : Result} (h : TwinResults s m os (.next t) o) : ∃ t', o = .next t' ∧ Twins s m os t t' := by
  cases h with
  | next h => exact ⟨_, rfl, h⟩

theorem TwinResults.of_fault {o : Result} {r : Fault} (h : TwinResults s m os (.fault r) o) : o = .fault r := by
  cases h
  rfl

theorem TwinResults.of_refused {o : Result} {r : Refusal} (h : TwinResults s m os (.refused r) o) : o = .refused r := by
  cases h
  rfl

end

/-- A step does the same with other surface bytes and other effects emitted before. -/
theorem step_twins (s : State) (m : Memory) (os : List Output) :
    TwinResults s m os (step s) (step { s with surface := m, outputs := os }) :=
  step_twins_of_twins (twins_start s m os)

/-- A word written over itself leaves every byte as it was. -/
theorem writeWord_writeWord {m : Memory} (o : ByteOrder) (k : Nat) (v : Word) (h : m.wf) :
    (m.writeWord o k v).writeWord o k v = m.writeWord o k v := by
  have hw := Memory.wf_writeWord o k v h
  refine Memory.ext_of_read (Memory.wf_writeWord o k v hw) hw fun a => ?_
  by_cases ha : a < k ∨ k + 4 ≤ a
  · exact Memory.read_writeWord_outside _ o k v a ha
  · obtain ⟨j, rfl⟩ : ∃ j, a = k + j := Nat.exists_eq_add_of_le (by omega)
    rw [Memory.read_writeWord_inside _ o k v j (by omega), Memory.read_writeWord_inside _ o k v j (by omega)]

/-- Settles O48: a step and its twin with other bytes; the writes are effects the block may emit. -/
theorem surfaceNeverFeedsBack : Obligations.SurfaceNeverFeedsBack := by
  refine ⟨fun s t m h => ?_, fun s m r h => ?_, fun s m r h => ?_, fun s t h => ?_, fun m o k v => writeWord_writeWord o k v⟩
  · have htw := step_twins s m s.outputs
    rw [h] at htw
    obtain ⟨t', ht', new, ho, -, rfl⟩ := htw.of_next
    rw [← ho] at ht'
    exact ⟨_, ht'⟩
  · have htw := step_twins s m s.outputs
    rw [h] at htw
    exact htw.of_fault
  · have htw := step_twins s m s.outputs
    rw [h] at htw
    exact htw.of_refused
  · obtain ⟨outs, ho, hok, -⟩ := step_appends h
    exact ⟨outs, ho, fun k v hmem => (hok _ hmem).2.1⟩

/-! ### The same but for the transport -/

/-- The effects but for the transport's requests and stops. -/
def withoutTransport (os : List Output) : List Output := os.filter (fun o => o ≠ .requestChunk ∧ o ≠ .stopTransfer)

theorem withoutTransport_append (as bs : List Output) :
    withoutTransport (as ++ bs) = withoutTransport as ++ withoutTransport bs := List.filter_append ..

theorem sameButTransport_iff {s t : State} :
    SameButTransport s t ↔ ∃ os, t = { s with outputs := os } ∧ withoutTransport s.outputs = withoutTransport os := by
  constructor
  · rintro ⟨he, hf⟩
    exact ⟨t.outputs, congrArg (fun u : State => { u with outputs := t.outputs }) he.symm, hf⟩
  · rintro ⟨os, rfl, hf⟩
    exact ⟨rfl, hf⟩

theorem sameButTransport_refl (s : State) : SameButTransport s s := ⟨rfl, rfl⟩

theorem sameButTransport_symm {s t : State} (h : SameButTransport s t) : SameButTransport t s := ⟨h.1.symm, h.2.symm⟩

theorem sameButTransport_trans {s t u : State} (h : SameButTransport s t) (h' : SameButTransport t u) : SameButTransport s u :=
  ⟨h.1.trans h'.1, h.2.trans h'.2⟩

/-- A request or a stop emitted makes no difference. -/
theorem sameButTransport_emit (s : State) {o : Output} (ho : withoutTransport [o] = []) : SameButTransport s (s.emit o) :=
  sameButTransport_iff.2 ⟨s.outputs ++ [o], rfl, by rw [withoutTransport_append, ho, List.append_nil]⟩

theorem sameButTransport_requestIfSelected (s : State) : SameButTransport s (requestIfSelected s) := by
  rcases requestIfSelected_cases s with ⟨-, e⟩ | ⟨-, e⟩ <;> rw [e]
  · exact sameButTransport_emit s rfl
  · exact sameButTransport_refl s

theorem sameButTransport_setMode {s t : State} (m : Mode) (h : SameButTransport s t) :
    SameButTransport (s.setMode m) (t.setMode m) := by
  obtain ⟨os, rfl, hf⟩ := sameButTransport_iff.1 h
  exact sameButTransport_iff.2 ⟨os, rfl, hf⟩

theorem sameButTransport_setRamWriteActive {s t : State} (b : Bool) (h : SameButTransport s t) :
    SameButTransport (s.setRamWriteActive b) (t.setRamWriteActive b) := by
  obtain ⟨os, rfl, hf⟩ := sameButTransport_iff.1 h
  exact sameButTransport_iff.2 ⟨os, rfl, hf⟩

/-- Bytes processed from two states that differ in transport effects only leave two such states. -/
theorem processChunk_sameButTransport {s s' t : State} {bs : List Byte} (h : SameButTransport s s')
    (ht : processChunk bs s = .next t) : ∃ t', processChunk bs s' = .next t' ∧ SameButTransport t t' := by
  obtain ⟨os, rfl, hf⟩ := sameButTransport_iff.1 h
  have htw := processChunk_twins bs (twins_start s s.surface os)
  rw [ht] at htw
  obtain ⟨t', ht', new, ho, hs, rfl⟩ := htw.of_next
  rw [← hs] at ht'
  refine ⟨_, ht', sameButTransport_iff.2 ⟨os ++ new, rfl, ?_⟩⟩
  rw [ho, withoutTransport_append, withoutTransport_append, hf]

/-- Settles O30: the flush starts from the state with the stop emitted, the chunk from the state without; nothing else differs. -/
theorem flushedBytesActAsAChunk : Obligations.FlushedBytesActAsAChunk := by
  intro s t level bs hbs hs hl h
  rw [modeLineEvent_of_selected bs hl hs] at h
  obtain ⟨u, hu, ht⟩ := andThen_eq_next.1 h
  obtain rfl := Host.Outcome.next.inj ht
  obtain ⟨b, bs, rfl⟩ := List.exists_cons_of_ne_nil hbs
  obtain ⟨v, hv, huv⟩ := processChunk_sameButTransport (sameButTransport_symm (sameButTransport_emit s rfl)) hu
  obtain ⟨hcfg, hmode, hsel, -⟩ := processChunk_lines hv
  have hvs : v.selected = true := hsel.trans hs
  have hvl : modeOfLevel (v.emit .requestChunk).config level ≠ (v.emit .requestChunk).mode := by
    rw [State.emit_config, State.emit_mode, hcfg, hmode]
    exact hl
  have hw := modeLineEvent_of_selected [] hvl hvs
  refine ⟨_, by rw [chunkEvent, hv, andThen_next, andThen_next, requestIfSelected_of_selected hvs]; exact hw, ?_⟩
  rw [State.emit_config, hcfg]
  have hsame : SameButTransport u ((v.emit .requestChunk).emit .stopTransfer) :=
    sameButTransport_trans huv (sameButTransport_trans (sameButTransport_emit v rfl) (sameButTransport_emit _ rfl))
  exact sameButTransport_trans (sameButTransport_symm (sameButTransport_emit _ rfl))
    (sameButTransport_trans (sameButTransport_setMode _ hsame) (sameButTransport_emit _ rfl))

/-! ### The same bytes in other chunks -/

/-- Chunks of data bytes that split where the parser allows, from a state where it does (R63): a chunk completes, two chunks are the one chunk of
their bytes, and an empty one is nothing. -/
structure Splittable (I : State → Prop) (ok : List Byte → Prop) : Prop where
  next : ∀ {s c}, I s → ok c → ∃ t, processChunk c s = .next t ∧ I t
  append : ∀ {s c} (d : List Byte), I s → ok c → processChunk (c ++ d) s = andThen (processChunk c s) (processChunk d)
  nil : ∀ {s}, I s → processChunk [] s = .next s
  request : ∀ {s}, I s → I (requestIfSelected s)

/-- Delivered one by one, such chunks leave what their bytes in one chunk leave, but for the transport. -/
theorem Splittable.deliverChunks {I : State → Prop} {ok : List Byte → Prop} (h : Splittable I ok) {s : State} (cs : List (List Byte))
    (hs : I s) (hcs : ∀ c ∈ cs, ok c) :
    ∃ t u, deliverChunks cs s = .next t ∧ processChunk cs.flatten s = .next u ∧ SameButTransport t u := by
  induction cs generalizing s with
  | nil => exact ⟨s, s, rfl, h.nil hs, sameButTransport_refl s⟩
  | cons c cs ih =>
    obtain ⟨v, hv, hiv⟩ := h.next hs (hcs c List.mem_cons_self)
    obtain ⟨t, u, ht, hu, htu⟩ := ih (h.request hiv) fun d hd => hcs d (List.mem_cons_of_mem c hd)
    obtain ⟨w, hw, huw⟩ := processChunk_sameButTransport (sameButTransport_symm (sameButTransport_requestIfSelected v)) hu
    refine ⟨t, w, ?_, ?_, sameButTransport_trans htu huw⟩
    · rw [Claims.deliverChunks, chunkEvent, hv]
      exact ht
    · rw [List.flatten_cons, h.append _ hs (hcs c List.mem_cons_self), hv]
      exact hw

/-- Two ways to cut the same bytes leave the same, but for the transport. -/
theorem Splittable.deliverChunks_congr {I : State → Prop} {ok : List Byte → Prop} (h : Splittable I ok) {s : State}
    {cs ds : List (List Byte)} (hs : I s) (hcs : ∀ c ∈ cs, ok c) (hds : ∀ d ∈ ds, ok d) (hb : cs.flatten = ds.flatten) :
    ∃ t u, Claims.deliverChunks cs s = .next t ∧ Claims.deliverChunks ds s = .next u ∧ SameButTransport t u := by
  obtain ⟨t, v, ht, hv, htv⟩ := h.deliverChunks cs hs hcs
  obtain ⟨u, w, hu, hw, huw⟩ := h.deliverChunks ds hs hds
  rw [hb, hw] at hv
  obtain rfl := Host.Outcome.next.inj hv
  exact ⟨t, u, ht, hu, sameButTransport_trans htv (sameButTransport_symm huw)⟩

/-- Data-mode bytes are parameters of a well-formed record. -/
def TakesParameters (s : State) : Prop := (s.config.Admitted ∧ s.PendingOk) ∧ s.mode = .data ∧ s.ramWriteActive = false

/-- Data-mode bytes are pixels. -/
def TakesPixels (s : State) : Prop := s.mode = .data ∧ s.ramWriteActive = true

/-- Parameter bytes split anywhere. -/
theorem splittable_parameters : Splittable TakesParameters (fun _ => True) where
  next := by
    rintro s c ⟨⟨hc, hk⟩, hm, hr⟩ -
    obtain ⟨t, ht⟩ := paramBytes_next c hc hk
    have hp := (processChunk_of_params c hm hr).trans ht
    obtain ⟨-, hmt, -⟩ := processChunk_lines hp
    exact ⟨t, hp, (paramBytes_moves ht).keeps_pendingOk ⟨hc, hk⟩, hmt.trans hm, (paramBytes_ramWriteActive hc hk ht).trans hr⟩
  append := by
    rintro s c d ⟨⟨hc, hk⟩, hm, hr⟩ -
    rw [processChunk_of_params _ hm hr, processChunk_of_params _ hm hr, paramBytes_append]
    refine andThen_congr fun t ht => ?_
    obtain ⟨-, hmt, -⟩ := processChunk_lines ((processChunk_of_params c hm hr).trans ht)
    rw [processChunk_of_params d (hmt.trans hm) ((paramBytes_ramWriteActive hc hk ht).trans hr)]
  nil := fun hs => processChunk_nil_of_data hs.2.1
  request := by
    intro s hs
    rcases requestIfSelected_cases s with ⟨-, e⟩ | ⟨-, e⟩ <;> rw [e] <;> exact hs

/-- Pixel bytes split between samples. -/
theorem splittable_pixels : Splittable TakesPixels (fun c => c.length % 2 = 0) where
  next := by
    rintro s c ⟨hm, hr⟩ -
    obtain ⟨-, hmt, -⟩ := pixelWrites_keeps (samplesOf c) s
    exact ⟨_, processChunk_of_ramWrite c hm hr, hmt.trans hm, (pixelWrites_ramWriteActive _ s).trans hr⟩
  append := by
    rintro s c d ⟨hm, hr⟩ hc
    obtain ⟨-, hmt, -⟩ := pixelWrites_keeps (samplesOf c) s
    rw [processChunk_of_ramWrite _ hm hr, processChunk_of_ramWrite _ hm hr, andThen_next,
      processChunk_of_ramWrite (s := pixelChunk c s) d (hmt.trans hm) ((pixelWrites_ramWriteActive _ s).trans hr)]
    simp only [pixelChunk, samplesOf_append c d hc, pixelWrites_append]
  nil := fun hs => processChunk_nil_of_data hs.1
  request := by
    intro s hs
    rcases requestIfSelected_cases s with ⟨-, e⟩ | ⟨-, e⟩ <;> rw [e] <;> exact hs

theorem afterCommandBytes_append (as bs : List Byte) (s : State) :
    afterCommandBytes bs (afterCommandBytes as s) = afterCommandBytes (as ++ bs) s := by
  induction as generalizing s with
  | nil => simp [afterCommandBytes, pendingAfter, reportsOf]
  | cons a as ih => rw [← afterCommandBytes_cons a as s, ih, List.cons_append, ← afterCommandBytes_cons a (as ++ bs) s]

/-- The same but for the transport and the ram-write flag. -/
def SameButFlag (s t : State) : Prop := SameButTransport (s.setRamWriteActive false) (t.setRamWriteActive false)

theorem sameButFlag_trans {s t u : State} (h : SameButFlag s t) (h' : SameButFlag t u) : SameButFlag s u :=
  sameButTransport_trans h h'

/-- With one flag in both they are the same but for the transport. -/
theorem SameButFlag.sameButTransport {s t : State} (h : SameButFlag s t) :
    SameButTransport s { t with ramWriteActive := s.ramWriteActive } :=
  sameButTransport_setRamWriteActive (s := s.setRamWriteActive false) (t := t.setRamWriteActive false) s.ramWriteActive h

/-- Command bytes read neither the effects nor the flag. -/
theorem sameButFlag_afterCommandBytes {s t : State} (bs : List Byte) (h : SameButFlag s t) :
    SameButFlag (afterCommandBytes bs s) (afterCommandBytes bs t) := by
  obtain ⟨os, he, hf⟩ := sameButTransport_iff.1 h
  obtain ⟨r, rfl⟩ : ∃ r, t = { s with ramWriteActive := r, outputs := os } :=
    ⟨_, congrArg (fun u : State => { u with ramWriteActive := t.ramWriteActive }) he⟩
  refine sameButTransport_iff.2 ⟨os ++ reportsOf s.config bs, rfl, ?_⟩
  exact (withoutTransport_append _ _).trans ((congrArg (· ++ _) hf).trans (withoutTransport_append _ _).symm)

theorem requestIfSelected_keeps (s : State) :
    (requestIfSelected s).config = s.config ∧ (requestIfSelected s).mode = s.mode ∧
    (requestIfSelected s).ramWriteActive = s.ramWriteActive := by
  rcases requestIfSelected_cases s with ⟨-, e⟩ | ⟨-, e⟩ <;> rw [e] <;> exact ⟨rfl, rfl, rfl⟩

/-- Command bytes delivered in chunks do what they do at once, but for the flag, which the last chunk decides (R56, R63). -/
theorem deliverChunks_of_command {s : State} (cs : List (List Byte)) (hc : s.config.Admitted) (hm : s.mode = .command) :
    ∃ t, deliverChunks cs s = .next t ∧ SameButFlag t (afterCommandBytes cs.flatten s) ∧
      ∀ c, cs.getLast? = some c → t.ramWriteActive = decide (s.config.cmdRamwr ∈ c) := by
  induction cs generalizing s with
  | nil =>
    have hself : afterCommandBytes [] s = s := by simp [afterCommandBytes, pendingAfter, reportsOf]
    exact ⟨s, rfl, by rw [List.flatten_nil, hself]; exact sameButTransport_refl _, fun _ h => nomatch h⟩
  | cons c cs ih =>
    have hv := (processChunk_of_command c hm).trans (commandChunksAreReadOffTheirBytes s c hc)
    generalize hvdef : ({ s with
      ramWriteActive := decide (s.config.cmdRamwr ∈ c)
      pending := pendingAfter s.config c s.pending
      outputs := s.outputs ++ reportsOf s.config c } : State) = v at hv
    have hvs : SameButFlag v (afterCommandBytes c s) := hvdef ▸ sameButTransport_refl _
    obtain ⟨hwc, hwm, hwr⟩ := requestIfSelected_keeps v
    have hvc : (requestIfSelected v).config = s.config := hwc.trans (congrArg State.config hvdef).symm
    have hvm : (requestIfSelected v).mode = .command := (hwm.trans (congrArg State.mode hvdef).symm).trans hm
    obtain ⟨t, ht, htw, hlast⟩ := ih (hvc ▸ hc) hvm
    refine ⟨t, by rw [deliverChunks, chunkEvent, hv]; exact ht, ?_, fun d hd => ?_⟩
    · have hws : SameButFlag (requestIfSelected v) (afterCommandBytes c s) :=
        sameButFlag_trans (sameButTransport_setRamWriteActive false (sameButTransport_symm (sameButTransport_requestIfSelected v))) hvs
      rw [List.flatten_cons, ← afterCommandBytes_append]
      exact sameButFlag_trans htw (sameButFlag_afterCommandBytes _ hws)
    · cases cs with
      | nil =>
        obtain rfl : c = d := by simpa using hd
        obtain rfl := Host.Outcome.next.inj ht
        exact hwr.trans (congrArg State.ramWriteActive hvdef).symm
      | cons e es => exact hvc ▸ hlast d (by simpa [List.getLast?_cons_cons] using hd)

/-- Settles O29: each law cuts the bytes from one state, and what the bytes leave in one chunk does not know the cuts. -/
theorem chunkBoundariesDoNotMatter : Obligations.ChunkBoundariesDoNotMatter := by
  refine ⟨fun s cs ds hc hk hm hr hb => ?parameters, fun s cs ds hm hr hcs hds hb => ?pixels, fun s cs ds hc hm hb => ?commands⟩
  case parameters =>
    exact splittable_parameters.deliverChunks_congr ⟨⟨hc, hk⟩, hm, hr⟩ (fun _ _ => trivial) (fun _ _ => trivial) hb
  case pixels => exact splittable_pixels.deliverChunks_congr ⟨hm, hr⟩ hcs hds hb
  case commands =>
    obtain ⟨t, ht, hts, hlast⟩ := deliverChunks_of_command cs hc hm
    obtain ⟨u, hu, hus, -⟩ := deliverChunks_of_command ds hc hm
    rw [hb] at hts
    exact ⟨t, u, ht, hu, (sameButFlag_trans hts (sameButTransport_symm hus)).sameButTransport, hlast⟩

end Sys2Proof.Machine
end

section
/-! Proofs of the statements about the whole machine (spec/10_state.md): its invariant part by part, and which registers a step may change. -/

namespace Sys2Proof.Machine

open Claims

/-! ### The cursor and the mark -/

/-- One axis of the cursor's invariant: in a window that is not empty it stands inside. -/
def AxisOk (start stop cur : Half) : Prop := start ≤ stop → start ≤ cur ∧ cur ≤ stop

theorem cursorOk_iff {s : State} : s.CursorOk ↔ AxisOk s.colStart s.colEnd s.curCol ∧ AxisOk s.rowStart s.rowEnd s.curRow := Iff.rfl

theorem axisOk_start (start stop : Half) : AxisOk start stop start := fun h => ⟨BitVec.le_refl start, h⟩

theorem axisOk_next {start stop cur : Half} (h : AxisOk start stop cur) : AxisOk start stop (axisNext cur start stop) :=
  fun hle => axisNext_mem hle (h hle).1

theorem pixelWrite_cursorOk {s : State} (v : Half) (h : s.CursorOk) : (pixelWrite v s).CursorOk := by
  obtain ⟨hcol, hrow⟩ := h
  obtain ⟨hc, hr⟩ := pixelWrite_cursor v s
  obtain ⟨hac, har⟩ := advance_cursor_cases s
  obtain ⟨-, -, -, -, -, -, hcs, hce, hrs, hre, -⟩ := pixelWrite_keeps v s
  rw [cursorOk_iff, hcs, hce, hrs, hre, hc, hr]
  constructor
  · rcases hac with e | e <;> rw [e]
    · exact hcol
    · exact axisOk_next hcol
  · rcases har with e | e <;> rw [e]
    · exact hrow
    · exact axisOk_next hrow

theorem exec_cursorOk {i : Instr} {s t : State} (h : exec i s = .next t) (hs : s.CursorOk) : t.CursorOk := by
  rcases exec_cases h with ⟨a, b, rfl⟩ | ⟨a, b, rfl⟩ | rfl | ⟨x, y, w, rfl⟩ | ⟨c, -, rfl⟩
  · exact ⟨axisOk_start a b, hs.2⟩
  · exact ⟨hs.1, axisOk_start a b⟩
  · exact hs
  · exact hs
  · exact hs

theorem ChunkMove.cursorOk {s t : State} (m : ChunkMove s t) (h : s.CursorOk) : t.CursorOk := by
  cases m with
  | clearRam | dropPending | startCommand | parameter => exact h
  | command i _ _ hw hi => exact exec_cursorOk hi h
  | sample v => exact pixelWrite_cursorOk v h

theorem EventMove.cursorOk {s t : State} (m : EventMove s t) (h : s.CursorOk) : t.CursorOk := by
  cases m with
  | chunk m => exact m.cursorOk h
  | reset => exact ⟨axisOk_start _ _, axisOk_start _ _⟩
  | request | stop | mode | selected | resetAsserted | events => exact h

/-- Only the mark and the configuration matter to the mark's invariant. -/
theorem faultOk_congr {s t : State} (hf : t.fault = s.fault) (hc : t.config = s.config) (h : s.FaultOk) : t.FaultOk := by
  unfold State.FaultOk
  rw [hf, hc]
  exact h

/-- A sample marks its own position, which has no offset, or nothing (spec/42_pixel_writer.md R78). -/
theorem pixelWrite_faultOk {s : State} (v : Half) (h : s.FaultOk) : (pixelWrite v s).FaultOk := by
  rcases pixelWrite_cases v s with ⟨k, -, e⟩ | ⟨hn, e⟩ <;> rw [e]
  · exact faultOk_congr (s := s) rfl rfl h
  · intro x y hf
    cases hs : s.fault with
    | none =>
      obtain ⟨rfl, rfl⟩ : sinkX s = x ∧ sinkY s = y := by simpa [hs] using hf
      exact hn
    | some r => exact h x y (by simpa [hs] using hf)

theorem ChunkMove.faultOk {s t : State} (m : ChunkMove s t) (h : s.FaultOk) : t.FaultOk := by
  cases m with
  | clearRam | dropPending | startCommand | parameter => exact h
  | command i _ _ hw hi =>
    obtain ⟨hc, -, -, -, -, -, hf, -⟩ := exec_keeps hi
    exact faultOk_congr hf hc h
  | sample v => exact pixelWrite_faultOk v h

theorem EventMove.faultOk {s t : State} (m : EventMove s t) (h : s.FaultOk) : t.FaultOk := by
  cases m with
  | chunk m => exact m.faultOk h
  | request | stop | mode | selected | resetAsserted | reset | events => exact h

/-! ### The effects and the surface -/

theorem step_outputsOk {s t : State} (h : step s = .next t) (hs : s.OutputsOk) : t.OutputsOk := by
  obtain ⟨outs, ho, hok, -⟩ := step_appends h
  intro o hmem
  rw [ho] at hmem
  rw [step_config h]
  rcases List.mem_append.1 hmem with hmem | hmem
  · exact hs o hmem
  · exact hok o hmem

/-- The surface after a step is the one before with the step's own writes: a step is its own twin. -/
theorem step_surface {s t : State} (h : step s = .next t) :
    ∃ new, t.outputs = s.outputs ++ new ∧ t.surface = replayOutputs t.config.surfaceByteOrder new s.surface := by
  have htw := step_twins s s.surface s.outputs
  rw [h] at htw
  obtain ⟨t', -, new, ho, hs, -⟩ := htw.of_next
  exact ⟨new, ho, hs⟩

/-- The surface's bytes in their canonical form and within bounds. -/
def Memory.Within (n : Nat) (m : Memory) : Prop := m.wf ∧ ∀ c ∈ m, c.1 < n

theorem within_writeWord {c : Config} {m : Memory} (o : ByteOrder) {k : Nat} {v : Word} (hm : m.Within c.surfaceBytes)
    (hk : (Output.writePixel k v).Ok c) : (m.writeWord o k v).Within c.surfaceBytes := by
  obtain ⟨halign, hlt, -⟩ := hk
  refine ⟨Memory.wf_writeWord o k v hm.1, fun d hd => ?_⟩
  rcases Memory.mem_writeWord hd with ⟨-, hd⟩ | hd
  · have hfour : c.surfaceBytes % 4 = 0 := Nat.mul_mod_left ..
    omega
  · exact hm.2 d hd

/-- Writes that are aligned and inside leave such a surface. -/
theorem within_replayOutputs {c : Config} (o : ByteOrder) {outs : List Output} {m : Memory} (hm : m.Within c.surfaceBytes)
    (hok : ∀ x ∈ outs, x.Ok c) : (replayOutputs o outs m).Within c.surfaceBytes := by
  induction outs generalizing m with
  | nil => exact hm
  | cons x outs ih =>
    have hx := hok x List.mem_cons_self
    have hrest := fun y hy => hok y (List.mem_cons_of_mem x hy)
    cases x with
    | writePixel k v => exact ih (within_writeWord o hm hx) hrest
    | requestChunk => exact ih hm hrest
    | stopTransfer => exact ih hm hrest
    | diagUnknownCommand code => exact ih hm hrest

theorem step_surfaceOk {s t : State} (h : step s = .next t) (ho : t.OutputsOk) (hs : s.SurfaceOk) : t.SurfaceOk := by
  obtain ⟨-, -, hreplay⟩ := hs
  obtain ⟨new, hout, hsurf⟩ := step_surface h
  have hall : t.surface = replayOutputs t.config.surfaceByteOrder t.outputs [] := by
    rw [hout, replayOutputs_append, step_config h, ← hreplay, ← step_config h]
    exact hsurf
  have hwithin := within_replayOutputs (m := []) t.config.surfaceByteOrder ⟨Memory.wf_nil, fun _ h => nomatch h⟩ ho
  rw [← hall] at hwithin
  exact ⟨hwithin.1, hwithin.2, hall⟩

/-- Settles O47: the record, the cursor and the mark update by update, the effects and the surface by what a step appends. -/
theorem everyStepKeepsInv : Obligations.EveryStepKeepsInv := by
  rintro s t ⟨config, pending, cursor, fault, outputs, surface⟩ h
  exact {
    config := step_config h ▸ config
    pending := step_keeps EventMove.pendingOk h pending
    cursor := step_keeps EventMove.cursorOk h cursor
    fault := step_keeps EventMove.faultOk h fault
    outputs := step_outputsOk h outputs
    surface := step_surfaceOk h (step_outputsOk h outputs) surface }

/-- At power-on nothing is pending, marked, emitted or written, and the cursor stands at the start of its window. -/
theorem powerOn_inv {c : Config} (hc : c.Admitted) : (State.powerOn c).Inv where
  config := hc
  pending := fun _ h => nomatch h
  cursor := ⟨axisOk_start _ _, axisOk_start _ _⟩
  fault := fun _ _ h => nomatch h
  outputs := fun _ h => nomatch h
  surface := ⟨Memory.wf_nil, fun _ h => (nomatch h), rfl⟩

/-- Settles O46. -/
theorem invAtPowerOn : Obligations.InvAtPowerOn := ⟨fun _ => powerOn_inv, powerOn_inv Config.chip_admitted⟩

/-! ### Which registers a step may change -/

/-- `t` is `s` but for the lines' levels, the effects and the events to come. -/
def LinesOnly (s t : State) : Prop :=
  ∃ m b c os es, t = { s with mode := m, selected := b, resetAsserted := c, outputs := os, events := es }

/-- An event as the bytes it processes: it is the reset transition, or it changes the lines only, or it processes its bytes between two such
changes, in the mode before it. -/
inductive BytesCase (s : State) (e : Event) (t : State) : Prop where
  | reset (h : IsResetTransition e s)
  | lines (h : LinesOnly s t) (hn : ¬ CommandModeBytes e s)
  | bytes (r u : State) (hr : LinesOnly s r) (hm : r.mode = s.mode) (h : processChunk (eventBytes e) r = .next u)
      (ht : LinesOnly u t) (hc : s.mode = .command → CommandModeBytes e s)

/-- A flush without bytes is no processing; with bytes it is a chunk (R86, R87, R89). -/
theorem bytesCase_of_flush {s u t : State} {e : Event} {bs : List Byte} (he : eventBytes e = bs)
    (hcm : CommandModeBytes e s ↔ s.mode = .command ∧ bs ≠ []) (h : flush bs (s.emit .stopTransfer) = .next u)
    (ht : LinesOnly u t) : BytesCase s e t := by
  cases bs with
  | nil =>
    obtain rfl := Host.Outcome.next.inj h
    obtain ⟨_, _, _, _, _, rfl⟩ := ht
    exact .lines ⟨_, _, _, _, _, rfl⟩ fun hc => (hcm.1 hc).2 rfl
  | cons b bs =>
    rw [flush, ← he] at h
    exact .bytes (s.emit .stopTransfer) u ⟨_, _, _, _, _, rfl⟩ rfl h ht fun hm => hcm.2 ⟨hm, List.cons_ne_nil b bs⟩

theorem EventCase.bytesCase {s t : State} {e : Event} (h : EventCase s e t) : BytesCase s e t := by
  cases h with
  | chunk bs u he h ht =>
    subst he
    refine .bytes s u ⟨_, _, _, _, _, rfl⟩ rfl h ?_ fun hm => ⟨hm, trivial⟩
    rcases requestIfSelected_cases u with ⟨-, e⟩ | ⟨-, e⟩ <;> rw [ht, e] <;> exact ⟨_, _, _, _, _, rfl⟩
  | modeFlush l bs u he hl hs h ht =>
    subst he ht
    exact bytesCase_of_flush rfl Iff.rfl h ⟨_, _, _, _, _, rfl⟩
  | selectOff l bs u he hl hs h ht =>
    subst he ht
    exact bytesCase_of_flush rfl Iff.rfl h ⟨_, _, _, _, _, rfl⟩
  | resetOn l he hl hs ht =>
    subst he
    exact .reset ⟨hl, hs⟩
  | modeSame l he hl ht | modeIdle l he hl hs ht | selectSame l he hl ht | selectOn l he hl hs ht =>
    subst he ht
    exact .lines ⟨_, _, _, _, _, rfl⟩ fun hc => hc.2 rfl
  | resetHeld l he hl hs ht | resetOff l he hl ht | endOfTransfer he ht =>
    subst he ht
    exact .lines ⟨_, _, _, _, _, rfl⟩ fun hc => hc.2

/-- Each line's level is an event of its own. -/
theorem EventCase.lines {s t : State} {e : Event} (h : EventCase s e t) :
    t.events = s.events ∧ ((∀ l bs, e ≠ .modeLine l bs) → t.mode = s.mode) ∧
    ((∀ l bs, e ≠ .selectLine l bs) → t.selected = s.selected) ∧ ((∀ l, e ≠ .resetLine l) → t.resetAsserted = s.resetAsserted) := by
  cases h with
  | chunk bs u he h ht =>
    obtain ⟨-, hm, hs, hr, hev⟩ := processChunk_lines h
    rcases requestIfSelected_cases u with ⟨-, e⟩ | ⟨-, e⟩ <;> rw [ht, e] <;> exact ⟨hev, fun _ => hm, fun _ => hs, fun _ => hr⟩
  | modeFlush l bs u he hl hs h ht =>
    obtain ⟨-, -, hs, hr, hev⟩ := flush_lines h
    rw [ht]
    exact ⟨hev, fun hne => absurd he (hne l bs), fun _ => hs, fun _ => hr⟩
  | selectOff l bs u he hl hs h ht =>
    obtain ⟨-, hm, -, hr, hev⟩ := flush_lines h
    rw [ht]
    exact ⟨hev, fun _ => hm, fun hne => absurd he (hne l bs), fun _ => hr⟩
  | modeIdle l he hl hs ht =>
    rw [ht]
    exact ⟨rfl, fun hne => absurd he (hne l []), fun _ => rfl, fun _ => rfl⟩
  | selectOn l he hl hs ht =>
    rw [ht]
    exact ⟨rfl, fun _ => rfl, fun hne => absurd he (hne l []), fun _ => rfl⟩
  | resetOn l he hl hs ht =>
    rw [ht]
    exact ⟨rfl, fun _ => rfl, fun _ => rfl, fun hne => absurd he (hne l)⟩
  | resetOff l he hl ht =>
    rw [ht]
    exact ⟨rfl, fun _ => rfl, fun _ => rfl, fun hne => absurd he (hne l)⟩
  | modeSame l he hl ht | selectSame l he hl ht | resetHeld l he hl hs ht | endOfTransfer he ht =>
    rw [ht]
    exact ⟨rfl, fun _ => rfl, fun _ => rfl, fun _ => rfl⟩

/-- Command bytes write the flag, the accumulator and the effects only, under every configuration (spec/40_protocol.md R57). -/
theorem commandByte_frame {b : Byte} {s t : State} (h : commandByte b s = .next t) :
    ∃ r p os, t = { s with ramWriteActive := r, pending := p, outputs := os } := by
  by_cases hn : argCount s.config b = 0
  · obtain ⟨i, hd, e⟩ := commandByte_of_argCount_eq_zero hn
    rw [e] at h
    rcases decode_of_argCount_eq_zero hn [] with ⟨-, hd'⟩ | ⟨-, hd'⟩
    · obtain rfl : i = .ramwr := (DecodeResult.ok.inj (hd.symm.trans hd')).1
      exact ⟨_, _, _, (Host.Outcome.next.inj h).symm⟩
    · obtain rfl : i = .unknown b := (DecodeResult.ok.inj (hd.symm.trans hd')).1
      exact ⟨_, _, _, (Host.Outcome.next.inj h).symm⟩
  · rw [commandByte_of_argCount_ne_zero hn] at h
    exact ⟨_, _, _, (Host.Outcome.next.inj h).symm⟩

theorem commandBytes_frame {bs : List Byte} {s t : State} (h : commandBytes bs s = .next t) :
    ∃ r p os, t = { s with ramWriteActive := r, pending := p, outputs := os } := by
  induction bs generalizing s with
  | nil => exact ⟨_, _, _, (Host.Outcome.next.inj h).symm⟩
  | cons b bs ih =>
    obtain ⟨u, hu, ht⟩ := andThen_eq_next.1 h
    obtain ⟨r, p, os, rfl⟩ := commandByte_frame hu
    obtain ⟨r', p', os', rfl⟩ := ih ht
    exact ⟨r', p', os', rfl⟩

/-- A command whose code is neither address set leaves the window and the cursor. -/
theorem exec_keeps_window {c : Config} {code : Byte} {args rest : List Byte} {i : Instr} {s t : State}
    (hd : decode c (code :: args) = .ok i rest) (h : exec i s = .next t) (hcas : code ≠ c.cmdCaset) (hras : code ≠ c.cmdRaset) :
    (t.colStart = s.colStart ∧ t.colEnd = s.colEnd ∧ t.rowStart = s.rowStart ∧ t.rowEnd = s.rowEnd) ∧
    t.curCol = s.curCol ∧ t.curRow = s.curRow := by
  rcases decode_cases hd with ⟨_, _, _, _, e, -⟩ | ⟨_, _, _, _, e, -⟩ | ⟨-, rfl⟩ | ⟨_, -, rfl⟩ | ⟨_, -, -, rfl⟩
  · exact absurd (List.cons_eq_cons.1 e).1 hcas
  · exact absurd (List.cons_eq_cons.1 e).1 hras
  all_goals
    obtain rfl := Host.Outcome.next.inj h
    exact ⟨⟨rfl, rfl, rfl, rfl⟩, rfl, rfl⟩

/-- A command whose code is not MADCTL leaves the orientation. -/
theorem exec_keeps_orientation {c : Config} {code : Byte} {args rest : List Byte} {i : Instr} {s t : State}
    (hd : decode c (code :: args) = .ok i rest) (h : exec i s = .next t) (hmad : code ≠ c.cmdMadctl) :
    t.mirrorX = s.mirrorX ∧ t.mirrorY = s.mirrorY ∧ t.swap = s.swap := by
  obtain ⟨-, -, -, -, -, -, -, -, -, -, horient, -⟩ := commandsLeaveTheRestUnchanged i s t h
  refine horient fun a ha => ?_
  subst ha
  rcases decode_cases hd with ⟨_, _, _, _, -, e⟩ | ⟨_, _, _, _, -, e⟩ | ⟨-, e⟩ | ⟨_, e, -⟩ | ⟨_, -, -, e⟩
  · cases e
  · cases e
  · cases e
  · exact hmad (List.cons_eq_cons.1 e).1
  · cases e

/-- What the bytes of a chunk keep, by the route they take (R23's table). -/
def RegistersKept (s t : State) : Prop :=
  (s.mode = .command ∨ s.ramWriteActive = true ∨ NoAddressSetPending s →
    t.colStart = s.colStart ∧ t.colEnd = s.colEnd ∧ t.rowStart = s.rowStart ∧ t.rowEnd = s.rowEnd) ∧
  (s.mode = .command ∨ (s.ramWriteActive = false ∧ NoAddressSetPending s) → t.curCol = s.curCol ∧ t.curRow = s.curRow) ∧
  (s.mode = .command ∨ s.ramWriteActive = true ∨ (∀ p, s.pending = some p → p.code ≠ s.config.cmdMadctl) →
    t.mirrorX = s.mirrorX ∧ t.mirrorY = s.mirrorY ∧ t.swap = s.swap) ∧
  (s.mode = .command ∨ s.ramWriteActive = false → t.fault = s.fault ∧ t.surface = s.surface)

theorem registersKept_refl (s : State) : RegistersKept s s :=
  ⟨fun _ => ⟨rfl, rfl, rfl, rfl⟩, fun _ => ⟨rfl, rfl⟩, fun _ => ⟨rfl, rfl, rfl⟩, fun _ => ⟨rfl, rfl⟩⟩

theorem registersKept_of_command {bs : List Byte} {s t : State} (h : commandChunk bs s = .next t) : RegistersKept s t := by
  obtain ⟨r, p, os, rfl⟩ := commandBytes_frame h
  exact registersKept_refl s

theorem registersKept_of_pixels {s : State} (vs : List Half) (hm : s.mode = .data) (hr : s.ramWriteActive = true) :
    RegistersKept s (pixelWrites vs s) := by
  obtain ⟨-, -, -, -, hcs, hce, hrs, hre, hx, hy, hw, -⟩ := pixelWrites_keeps vs s
  refine ⟨fun _ => ⟨hcs, hce, hrs, hre⟩, fun hc => ?_, fun _ => ⟨hx, hy, hw⟩, fun hc => ?_⟩ <;> simp [hm, hr] at hc

theorem registersKept_of_params {bs : List Byte} {s t : State} (hm : s.mode = .data) (hr : s.ramWriteActive = false)
    (h : paramBytes bs s = .next t) : RegistersKept s t := by
  cases paramBytes_cases h with
  | kept e => exact e ▸ registersKept_refl s
  | extended p ps hp e =>
    subst e
    exact registersKept_refl s
  | executed p args rest i hp hd hi =>
    obtain ⟨-, -, -, -, -, -, hf, hsurf⟩ := exec_keeps hi
    have window : NoAddressSetPending s → _ := fun hno => exec_keeps_window hd hi (hno p hp).1 (hno p hp).2
    refine ⟨fun hc => ?_, fun hc => ?_, fun hc => ?_, fun _ => ⟨hf, hsurf⟩⟩ <;> simp only [hm, hr, reduceCtorEq, false_or,
      Bool.false_eq_true, true_and] at hc
    · exact (window hc).1
    · exact (window hc).2
    · exact exec_keeps_orientation (s := s.setPending none) hd hi (hc p hp)

theorem processChunk_registersKept {bs : List Byte} {s t : State} (h : processChunk bs s = .next t) : RegistersKept s t := by
  cases hm : s.mode with
  | command => exact registersKept_of_command ((processChunk_of_command bs hm).symm.trans h)
  | data =>
    cases hr : s.ramWriteActive with
    | true =>
      obtain rfl := Host.Outcome.next.inj ((processChunk_of_ramWrite bs hm hr).symm.trans h)
      exact registersKept_of_pixels _ hm hr
    | false => exact registersKept_of_params hm hr ((processChunk_of_params bs hm hr).symm.trans h)

/-- Any event but the reset transition keeps what the bytes it processes keep. -/
theorem BytesCase.registersKept {s t : State} {e : Event} (h : BytesCase s e t) (hn : ¬ IsResetTransition e s) :
    RegistersKept s t := by
  cases h with
  | reset h => exact absurd h hn
  | lines h _ =>
    obtain ⟨m, b, c, os, es, rfl⟩ := h
    exact registersKept_refl s
  | bytes r u hr hm h ht _ =>
    obtain ⟨m, b, c, os, es, rfl⟩ := hr
    obtain ⟨m', b', c', os', es', rfl⟩ := ht
    obtain rfl : m = s.mode := hm
    have kept := processChunk_registersKept h
    exact kept

theorem isResetTransition_setEvents {e : Event} {s : State} {es : List Event} :
    IsResetTransition e (s.setEvents es) ↔ IsResetTransition e s := by
  cases e <;> rfl

theorem commandModeBytes_setEvents {e : Event} {s : State} {es : List Event} :
    CommandModeBytes e (s.setEvents es) ↔ CommandModeBytes e s := by
  cases e <;> rfl

/-- The reset transition writes neither the mark nor the surface, and clears the ram-write flag (spec/70_reset_and_hazards.md R111). -/
theorem step_of_isResetTransition {s t : State} {e : Event} {es : List Event} (he : s.events = e :: es) (h : step s = .next t)
    (hr : IsResetTransition e s) : t.fault = s.fault ∧ t.surface = s.surface ∧ t.ramWriteActive = false := by
  cases e with
  | resetLine level =>
    obtain rfl := Host.Outcome.next.inj (((resetLineTransition s level es he).1 hr.1 hr.2).symm.trans h)
    exact ⟨rfl, rfl, rfl⟩
  | chunk bs => exact hr.elim
  | modeLine level bs => exact hr.elim
  | selectLine level bs => exact hr.elim
  | endOfTransfer => exact hr.elim

/-- Settles O49: the lines event by event, the registers by the bytes an event processes. -/
theorem whoWritesEachRegister : Obligations.WhoWritesEachRegister := by
  intro s t e es he h
  have hcase := step_cases he h
  obtain ⟨hev, hmode, hsel, hres⟩ := hcase.lines
  have kept : ¬ IsResetTransition e s → RegistersKept s t := fun hn =>
    hcase.bytesCase.registersKept (isResetTransition_setEvents.not.2 hn)
  refine ⟨step_config h, hev, hmode, hsel, hres, fun hn => ?_, fun hc => ?_⟩
  · obtain ⟨hwin, hcur, horient, -⟩ := kept hn
    exact ⟨hwin, hcur, horient⟩
  · by_cases hr : IsResetTransition e s
    · obtain ⟨hf, hs, -⟩ := step_of_isResetTransition he h hr
      exact ⟨hf, hs⟩
    · obtain ⟨-, -, -, hmark⟩ := kept hr
      exact hmark hc

theorem not_commandModeBytes_of_isResetTransition {e : Event} {s : State} (h : IsResetTransition e s) : ¬ CommandModeBytes e s := by
  cases e with
  | resetLine level => exact fun hc => hc.2
  | chunk bs => exact h.elim
  | modeLine level bs => exact h.elim
  | selectLine level bs => exact h.elim
  | endOfTransfer => exact h.elim

theorem LinesOnly.registers {s t : State} (h : LinesOnly s t) :
    t.config = s.config ∧ t.pending = s.pending ∧ t.ramWriteActive = s.ramWriteActive := by
  obtain ⟨_, _, _, _, _, rfl⟩ := h
  exact ⟨rfl, rfl, rfl⟩

/-- After a command-mode chunk the ram-write flag says whether RAMWR is among its bytes (spec/40_protocol.md R56). -/
theorem processChunk_ramWriteActive_of_command {bs : List Byte} {s t : State} (hc : s.config.Admitted) (hm : s.mode = .command)
    (h : processChunk bs s = .next t) : t.ramWriteActive = decide (s.config.cmdRamwr ∈ bs) := by
  rw [processChunk_of_command bs hm, commandChunksAreReadOffTheirBytes s bs hc] at h
  obtain rfl := Host.Outcome.next.inj h
  rfl

/-- A data-mode chunk of a well-formed record leaves the ram-write flag (spec/10_state.md R14). -/
theorem processChunk_ramWriteActive_of_data {bs : List Byte} {s t : State} (hc : s.config.Admitted) (hk : s.PendingOk)
    (hm : s.mode = .data) (h : processChunk bs s = .next t) : t.ramWriteActive = s.ramWriteActive := by
  cases hr : s.ramWriteActive with
  | true =>
    obtain rfl := Host.Outcome.next.inj ((processChunk_of_ramWrite bs hm hr).symm.trans h)
    exact (pixelWrites_ramWriteActive _ s).trans hr
  | false => exact (paramBytes_ramWriteActive hc hk ((processChunk_of_params bs hm hr).symm.trans h)).trans hr

/-- Any event but the reset transition writes the ram-write flag as the bytes it processes do. -/
theorem BytesCase.ramWriteActive {s t : State} {e : Event} (h : BytesCase s e t) (hn : ¬ IsResetTransition e s)
    (hc : s.config.Admitted) (hk : s.PendingOk) :
    (CommandModeBytes e s → t.ramWriteActive = decide (s.config.cmdRamwr ∈ eventBytes e)) ∧
    (¬ CommandModeBytes e s → t.ramWriteActive = s.ramWriteActive) := by
  cases h with
  | reset h => exact absurd h hn
  | lines h hcm =>
    obtain ⟨m, b, c, os, es, rfl⟩ := h
    exact ⟨fun h => absurd h hcm, fun _ => rfl⟩
  | bytes r u hr hm h ht hcm =>
    obtain ⟨hrc, hrp, hrf⟩ := hr.registers
    obtain ⟨-, -, htf⟩ := ht.registers
    have hrk : r.PendingOk := pendingOk_congr hrp hrc hk
    rw [htf, ← hrc, ← hrf]
    rw [← hrc] at hc
    refine ⟨fun hcb => processChunk_ramWriteActive_of_command hc (hm.trans hcb.1) h, fun hcb => ?_⟩
    cases hsm : s.mode with
    | command => exact absurd (hcm hsm) hcb
    | data => exact processChunk_ramWriteActive_of_data hc hrk (hm.trans hsm) h

/-- Settles O50. -/
theorem ramWriteFlagWriters : Obligations.RamWriteFlagWriters := by
  refine ⟨fun s t e es hc hk he h => ?_, fun s bs hm => by simp [processChunk, dataChunk, hm], fun _ => rfl⟩
  by_cases hr : IsResetTransition e s
  · obtain ⟨-, -, hflag⟩ := step_of_isResetTransition he h hr
    exact ⟨fun hcb => absurd hcb (not_commandModeBytes_of_isResetTransition hr), fun _ => hflag, fun _ hn => absurd hr hn⟩
  · obtain ⟨hcommand, hother⟩ := (step_cases he h).bytesCase.ramWriteActive (isResetTransition_setEvents.not.2 hr) hc hk
    rw [commandModeBytes_setEvents] at hcommand hother
    exact ⟨hcommand, fun h => absurd h hr, fun hcb _ => hother hcb⟩

end Sys2Proof.Machine
end
